-- ==== Sys2Proof/Word.lean ====
section
/-! DEFINITION. The word types of the SPKC block (00_scope.md R7). -/

namespace Sys2Proof

/-- One byte of the record region (20_memory.md R30: "A byte is 8 bits"). -/
abbrev Byte := BitVec 8

/-- A 32-bit word: a record's field word or timestamp word, a header counter, a command's `arg`. -/
abbrev Word := BitVec 32

/-- The 40-bit command word (30_encoding.md R55). -/
abbrev CmdWord := BitVec 40

/-- The 64-bit value of a response (30_encoding.md R58). -/
abbrev Value := BitVec 64

end Sys2Proof
end

