-- ==== Sys2Proof/Syntax.lean ====
section
/-! DEFINITION. The commands of SPKC-CMD v1, one constructor per row of the opcode table
(30_encoding.md R56). An operand is the 32-bit field `arg` as written (R55, R57); class N commands
have none. -/

namespace Sys2Proof

/-- A command, as its mnemonic and operand (30_encoding.md R56, R57, R61). -/
inductive Instr where
  -- Record codec (40_record_codec.md)
  /-- `GETCORE`, class N, R72. -/
  | getcore
  /-- `SETCORE`, class U, R73. -/
  | setcore (v : Word)
  /-- `GETCHIP`, class N, R74. -/
  | getchip
  /-- `SETCHIP`, class U, R75. -/
  | setchip (v : Word)
  /-- `GETNEURON`, class N, R76. -/
  | getneuron
  /-- `SETNEURON`, class U, R77. -/
  | setneuron (v : Word)
  /-- `GETTS`, class N, R78. -/
  | getts
  /-- `SETTS`, class S, R79. -/
  | setts (t : Word)
  /-- `ISVALID`, class N, R80. -/
  | isvalid
  -- Validity bookkeeping (41_validity_bookkeeping.md)
  /-- `VALIDATE`, class N, R91. -/
  | validate
  /-- `INVALIDATE`, class N, R92. -/
  | invalidate
  -- 64-bit timestamp (42_timestamp64.md)
  /-- `GETTS64`, class N, R101. -/
  | getts64
  -- Traversal (43_traversal.md)
  /-- `ITFA`, class N, R112. -/
  | itfa
  /-- `ITFV`, class N, R113. -/
  | itfv
  /-- `ITRA`, class N, R114. -/
  | itra
  /-- `ITRV`, class N, R115. -/
  | itrv
  /-- `ITFAM`, class N, R116. -/
  | itfam
  /-- `ITFVM`, class N, R117. -/
  | itfvm
  /-- `ITRAM`, class N, R118. -/
  | itram
  /-- `ITRVM`, class N, R119. -/
  | itrvm
  /-- `ITNEXT`, class N, R120. -/
  | itnext
  -- Access, creation, release, view (44_access_alloc_header.md)
  /-- `GETEVENT`, class S, R130. -/
  | getevent (n : Word)
  /-- `ALLOC`, class S, R131. -/
  | alloc (cap : Word)
  /-- `FREE`, class N, R132. -/
  | free
  /-- `VIEW`, class N, R133. -/
  | view
  -- Header reads and writes (44_access_alloc_header.md)
  /-- `RDTYPE`, class N, R134. -/
  | rdtype
  /-- `RDSOURCE`, class N, R135. -/
  | rdsource
  /-- `RDCAP`, class N, R136. -/
  | rdcap
  /-- `RDEVCNT`, class N, R137. -/
  | rdevcnt
  /-- `RDVALCNT`, class N, R138. -/
  | rdvalcnt
  /-- `RDOVF`, class N, R139. -/
  | rdovf
  /-- `WRTYPE`, class H, R140. -/
  | wrtype (v : Word)
  /-- `WRSOURCE`, class H, R141. -/
  | wrsource (v : Word)
  /-- `WREVCNT`, class U, R142. -/
  | wrevcnt (v : Word)
  /-- `WRVALCNT`, class U, R143. -/
  | wrvalcnt (v : Word)
  /-- `WROVF`, class U, R144. -/
  | wrovf (v : Word)
  deriving DecidableEq, Repr

end Sys2Proof
end

