-- ==== Sys2Proof/WellFormed.lean ====
section
/-! DEFINITION. Which terms of the syntax are commands: the operand classes of 30_encoding.md R57.
Classes U and S accept every `arg` and class N has none to check, so the one check is class H's. -/

namespace Sys2Proof

/-- Class H: "`arg[31:16]` must be zero; `arg[15:0]` is the operand" (30_encoding.md R57). -/
def halfOperand (arg : Word) : Bool := arg.extractLsb' 16 16 == 0

/-- The command has a legal encoding (30_encoding.md R57, R59). -/
def Instr.wellFormed : Instr → Bool
  | .getcore => true
  | .setcore _ => true
  | .getchip => true
  | .setchip _ => true
  | .getneuron => true
  | .setneuron _ => true
  | .getts => true
  | .setts _ => true
  | .isvalid => true
  | .validate => true
  | .invalidate => true
  | .getts64 => true
  | .itfa => true
  | .itfv => true
  | .itra => true
  | .itrv => true
  | .itfam => true
  | .itfvm => true
  | .itram => true
  | .itrvm => true
  | .itnext => true
  | .getevent _ => true
  | .alloc _ => true
  | .free => true
  | .view => true
  | .rdtype => true
  | .rdsource => true
  | .rdcap => true
  | .rdevcnt => true
  | .rdvalcnt => true
  | .rdovf => true
  | .wrtype v => halfOperand v
  | .wrsource v => halfOperand v
  | .wrevcnt _ => true
  | .wrvalcnt _ => true
  | .wrovf _ => true

end Sys2Proof
end

