-- ==== Sys2Proof/Decode.lean ====
section
/-! DEFINITION. The decoder, total on every 40-bit command word (30_encoding.md R55 to R59), the
encoder (R61), and the opcode table as masks and patterns (R57). -/

namespace Sys2Proof

/-- Why a command word is illegal (30_encoding.md R59). -/
inductive DecodeError where
  /-- `op` is not in the opcode map of R56. -/
  | reservedOp (op : BitVec 8)
  /-- `arg` is not a legal value of the command's class (R57). -/
  | reservedArg (op : BitVec 8) (arg : Word)
  deriving DecidableEq, Repr

/-- `CMD[39:32]` (30_encoding.md R55). -/
def cmdOp (w : CmdWord) : BitVec 8 := w.extractLsb' 32 8

/-- `CMD[31:0]` (30_encoding.md R55). -/
def cmdArg (w : CmdWord) : Word := w.extractLsb' 0 32

/-- Class N: `arg` must be zero (30_encoding.md R57). -/
def classN (w : CmdWord) (i : Instr) : Except DecodeError Instr :=
  if cmdArg w = 0 then .ok i else .error (.reservedArg (cmdOp w) (cmdArg w))

/-- Classes U and S: any `arg` (30_encoding.md R57). -/
def classUS (w : CmdWord) (mk : Word → Instr) : Except DecodeError Instr :=
  .ok (mk (cmdArg w))

/-- Class H: `arg[31:16]` must be zero (30_encoding.md R57). -/
def classH (w : CmdWord) (mk : Word → Instr) : Except DecodeError Instr :=
  if (cmdArg w).extractLsb' 16 16 = 0 then .ok (mk (cmdArg w))
  else .error (.reservedArg (cmdOp w) (cmdArg w))

/-- The decoder: "reads `op`, then checks `arg` against the command's operand class" (30_encoding.md
R55, R56, R57, R59). -/
def decode (w : CmdWord) : Except DecodeError Instr :=
  match cmdOp w with
  | 0x10#8 => classN w .getcore
  | 0x11#8 => classUS w .setcore
  | 0x12#8 => classN w .getchip
  | 0x13#8 => classUS w .setchip
  | 0x14#8 => classN w .getneuron
  | 0x15#8 => classUS w .setneuron
  | 0x16#8 => classN w .getts
  | 0x17#8 => classUS w .setts
  | 0x18#8 => classN w .isvalid
  | 0x20#8 => classN w .validate
  | 0x21#8 => classN w .invalidate
  | 0x30#8 => classN w .getts64
  | 0x40#8 => classN w .itfa
  | 0x41#8 => classN w .itfv
  | 0x42#8 => classN w .itra
  | 0x43#8 => classN w .itrv
  | 0x44#8 => classN w .itfam
  | 0x45#8 => classN w .itfvm
  | 0x46#8 => classN w .itram
  | 0x47#8 => classN w .itrvm
  | 0x48#8 => classN w .itnext
  | 0x50#8 => classUS w .getevent
  | 0x51#8 => classUS w .alloc
  | 0x52#8 => classN w .free
  | 0x53#8 => classN w .view
  | 0x60#8 => classN w .rdtype
  | 0x61#8 => classN w .rdsource
  | 0x62#8 => classN w .rdcap
  | 0x63#8 => classN w .rdevcnt
  | 0x64#8 => classN w .rdvalcnt
  | 0x65#8 => classN w .rdovf
  | 0x68#8 => classH w .wrtype
  | 0x69#8 => classH w .wrsource
  | 0x6B#8 => classUS w .wrevcnt
  | 0x6C#8 => classUS w .wrvalcnt
  | 0x6D#8 => classUS w .wrovf
  | op => .error (.reservedOp op)

/-- The command's `op` (30_encoding.md R56). -/
def Instr.op : Instr → BitVec 8
  | .getcore => 0x10#8
  | .setcore _ => 0x11#8
  | .getchip => 0x12#8
  | .setchip _ => 0x13#8
  | .getneuron => 0x14#8
  | .setneuron _ => 0x15#8
  | .getts => 0x16#8
  | .setts _ => 0x17#8
  | .isvalid => 0x18#8
  | .validate => 0x20#8
  | .invalidate => 0x21#8
  | .getts64 => 0x30#8
  | .itfa => 0x40#8
  | .itfv => 0x41#8
  | .itra => 0x42#8
  | .itrv => 0x43#8
  | .itfam => 0x44#8
  | .itfvm => 0x45#8
  | .itram => 0x46#8
  | .itrvm => 0x47#8
  | .itnext => 0x48#8
  | .getevent _ => 0x50#8
  | .alloc _ => 0x51#8
  | .free => 0x52#8
  | .view => 0x53#8
  | .rdtype => 0x60#8
  | .rdsource => 0x61#8
  | .rdcap => 0x62#8
  | .rdevcnt => 0x63#8
  | .rdvalcnt => 0x64#8
  | .rdovf => 0x65#8
  | .wrtype _ => 0x68#8
  | .wrsource _ => 0x69#8
  | .wrevcnt _ => 0x6B#8
  | .wrvalcnt _ => 0x6C#8
  | .wrovf _ => 0x6D#8

/-- The command's `arg`; 0 for class N (30_encoding.md R57, R61). -/
def Instr.arg : Instr → Word
  | .getcore => 0
  | .setcore v => v
  | .getchip => 0
  | .setchip v => v
  | .getneuron => 0
  | .setneuron v => v
  | .getts => 0
  | .setts t => t
  | .isvalid => 0
  | .validate => 0
  | .invalidate => 0
  | .getts64 => 0
  | .itfa => 0
  | .itfv => 0
  | .itra => 0
  | .itrv => 0
  | .itfam => 0
  | .itfvm => 0
  | .itram => 0
  | .itrvm => 0
  | .itnext => 0
  | .getevent n => n
  | .alloc cap => cap
  | .free => 0
  | .view => 0
  | .rdtype => 0
  | .rdsource => 0
  | .rdcap => 0
  | .rdevcnt => 0
  | .rdvalcnt => 0
  | .rdovf => 0
  | .wrtype v => v
  | .wrsource v => v
  | .wrevcnt v => v
  | .wrvalcnt v => v
  | .wrovf v => v

/-- "The encoding of `MNEMONIC v` is `op ‖ arg`" (30_encoding.md R61). -/
def encode (i : Instr) : CmdWord := i.op ++ i.arg

/-- One row of the opcode table: "a word `w` selects a row when `w & mask = match`" (30_encoding.md R57). -/
structure OpcodeRow where
  mnemonic : String
  pattern : CmdWord
  mask : CmdWord
  deriving DecidableEq, Repr

/-- The row `r` is selected by the word `w` (30_encoding.md R57). -/
def OpcodeRow.selects (r : OpcodeRow) (w : CmdWord) : Bool := w &&& r.mask == r.pattern

/-- A class N row's mask (30_encoding.md R57). -/
def maskN : CmdWord := 0xFFFFFFFFFF#40

/-- A class U or S row's mask (30_encoding.md R57). -/
def maskUS : CmdWord := 0xFF00000000#40

/-- A class H row's mask (30_encoding.md R57). -/
def maskH : CmdWord := 0xFFFFFF0000#40

/-- The row of the opcode table that a command stands in (30_encoding.md R56, R57). -/
def Instr.row : Instr → OpcodeRow
  | .getcore => ⟨"GETCORE", 0x1000000000#40, maskN⟩
  | .setcore _ => ⟨"SETCORE", 0x1100000000#40, maskUS⟩
  | .getchip => ⟨"GETCHIP", 0x1200000000#40, maskN⟩
  | .setchip _ => ⟨"SETCHIP", 0x1300000000#40, maskUS⟩
  | .getneuron => ⟨"GETNEURON", 0x1400000000#40, maskN⟩
  | .setneuron _ => ⟨"SETNEURON", 0x1500000000#40, maskUS⟩
  | .getts => ⟨"GETTS", 0x1600000000#40, maskN⟩
  | .setts _ => ⟨"SETTS", 0x1700000000#40, maskUS⟩
  | .isvalid => ⟨"ISVALID", 0x1800000000#40, maskN⟩
  | .validate => ⟨"VALIDATE", 0x2000000000#40, maskN⟩
  | .invalidate => ⟨"INVALIDATE", 0x2100000000#40, maskN⟩
  | .getts64 => ⟨"GETTS64", 0x3000000000#40, maskN⟩
  | .itfa => ⟨"ITFA", 0x4000000000#40, maskN⟩
  | .itfv => ⟨"ITFV", 0x4100000000#40, maskN⟩
  | .itra => ⟨"ITRA", 0x4200000000#40, maskN⟩
  | .itrv => ⟨"ITRV", 0x4300000000#40, maskN⟩
  | .itfam => ⟨"ITFAM", 0x4400000000#40, maskN⟩
  | .itfvm => ⟨"ITFVM", 0x4500000000#40, maskN⟩
  | .itram => ⟨"ITRAM", 0x4600000000#40, maskN⟩
  | .itrvm => ⟨"ITRVM", 0x4700000000#40, maskN⟩
  | .itnext => ⟨"ITNEXT", 0x4800000000#40, maskN⟩
  | .getevent _ => ⟨"GETEVENT", 0x5000000000#40, maskUS⟩
  | .alloc _ => ⟨"ALLOC", 0x5100000000#40, maskUS⟩
  | .free => ⟨"FREE", 0x5200000000#40, maskN⟩
  | .view => ⟨"VIEW", 0x5300000000#40, maskN⟩
  | .rdtype => ⟨"RDTYPE", 0x6000000000#40, maskN⟩
  | .rdsource => ⟨"RDSOURCE", 0x6100000000#40, maskN⟩
  | .rdcap => ⟨"RDCAP", 0x6200000000#40, maskN⟩
  | .rdevcnt => ⟨"RDEVCNT", 0x6300000000#40, maskN⟩
  | .rdvalcnt => ⟨"RDVALCNT", 0x6400000000#40, maskN⟩
  | .rdovf => ⟨"RDOVF", 0x6500000000#40, maskN⟩
  | .wrtype _ => ⟨"WRTYPE", 0x6800000000#40, maskH⟩
  | .wrsource _ => ⟨"WRSOURCE", 0x6900000000#40, maskH⟩
  | .wrevcnt _ => ⟨"WREVCNT", 0x6B00000000#40, maskUS⟩
  | .wrvalcnt _ => ⟨"WRVALCNT", 0x6C00000000#40, maskUS⟩
  | .wrovf _ => ⟨"WROVF", 0x6D00000000#40, maskUS⟩

/-- One command of each row, in the table's order, the operands 0. -/
def rowSamples : List Instr :=
  [.getcore, .setcore 0, .getchip, .setchip 0, .getneuron, .setneuron 0, .getts, .setts 0, .isvalid]
  ++ [.validate, .invalidate, .getts64, .itfa, .itfv, .itra,
    .itrv, .itfam, .itfvm, .itram, .itrvm, .itnext]
  ++ [.getevent 0, .alloc 0, .free, .view, .rdtype,
    .rdsource, .rdcap, .rdevcnt, .rdvalcnt, .rdovf,
    .wrtype 0, .wrsource 0, .wrevcnt 0, .wrvalcnt 0, .wrovf 0]

/-- The opcode table: 36 rows (30_encoding.md R56, R57). -/
def opcodeTable : List OpcodeRow := rowSamples.map Instr.row

/-- The instruction the decoder reads from a table row's word: the block has one 40-bit word per
command, numbered as the table numbers it (bit 0 least significant), so no byte order enters; bits
above `nbits` are 0, and a number of more than 40 bits is no command word. -/
def decodeTableWord (nbits w : Nat) : Option Instr :=
  let bits := w % 2 ^ nbits
  if bits < 2 ^ 40 then
    match decode (BitVec.ofNat 40 bits) with
    | .ok i => some i
    | .error _ => none
  else none

end Sys2Proof
end

