-- ==== Sys2Proof/Config.lean ====
section
/-! DEFINITION. What an implementation fixes (00_scope.md R6, D4) and the free choice the spec leaves
open (20_memory.md R43, D23). Nothing here has a value: the constants are opaque. -/

namespace Sys2Proof

/-- The four parameters the spec leaves open, "fixed per instance" (00_scope.md R6, 10_state.md R26). -/
structure Params where
  /-- `MAX_CAPACITY`: the number of record slots the block physically has. -/
  maxCapacity : Nat
  /-- `HEADER_SIZE`: byte size of the external header in the wire image. -/
  headerSize : Nat
  /-- `SIZE_BITS`: width in bits of the platform's size type. -/
  sizeBits : Nat
  /-- `SPIKE_EVENT_TAG`: the reserved "spike event" constant of the type tag. -/
  spikeEventTag : BitVec 16
  deriving DecidableEq, Repr

/-- The ranges R6 gives: `0 <= MAX_CAPACITY <= 2^31 - 1` and `1 <= SIZE_BITS <= 64`. -/
def Params.wf (p : Params) : Bool :=
  decide (p.maxCapacity ≤ 2 ^ 31 - 1) && decide (1 ≤ p.sizeBits) && decide (p.sizeBits ≤ 64)

/-- `MAX_CAPACITY` of the instance, `0 .. 2^31 - 1`. OPEN (D4); log entry 1. -/
opaque Config.maxCapacity : Fin 2147483648

/-- `HEADER_SIZE` of the instance, any non-negative integer. OPEN (D4); log entry 1. -/
opaque Config.headerSize : Nat

/-- `SIZE_BITS - 1` of the instance, `0 .. 63`, so that `SIZE_BITS` is any of `1 .. 64`. OPEN (D4);
log entry 1. -/
opaque Config.sizeBitsLessOne : Fin 64

/-- `SPIKE_EVENT_TAG` of the instance, any 16-bit value. OPEN (D4); log entry 1. -/
opaque Config.spikeEventTag : BitVec 16

/-- The parameters of the instance the machine is reset with. -/
def Config.params : Params :=
  { maxCapacity := Config.maxCapacity.val
    headerSize := Config.headerSize
    sizeBits := Config.sizeBitsLessOne.val + 1
    spikeEventTag := Config.spikeEventTag }

/-- Which port goes first when a command and an image access are outstanding together, for the
`n`-th such choice: "which goes first is not specified" (20_memory.md R43). A free value; log entry 6. -/
opaque Config.commandFirst : Nat → Bool

end Sys2Proof
end

