-- ==== Sys2Proof/Machine/State.lean ====
section
/-! DEFINITION. The machine's state as plain data (10_state.md R10 to R27), what the host presents and
what the block answers (R11), the reasons a step can stop, and the state after reset (R27, R190). -/

namespace Sys2Proof.Machine

/-- The status a command ends with, by name; the codes are in Machine/Flags.lean (60_exceptions.md R160). -/
inductive Status where
  | ok
  | eBounds
  | eInvalidArg
  | eInvariant
  | eAllocFail
  | nTagMismatch
  | nEnd
  | xIllegalCmd
  | xNoPacket
  | xNullRef
  | xReadonlyRef
  | xAlreadyAllocated
  | xCountLimit
  | xTsReserved
  deriving DecidableEq, Repr

/-- One response: a status and a 64-bit value (30_encoding.md R58). -/
structure Response where
  status : Status
  value : Value
  deriving DecidableEq, Repr

/-- "There is one severity" (60_exceptions.md R163). -/
inductive Severity where
  | critical
  deriving DecidableEq, Repr

/-- One report on `LOG`: `(severity = CRITICAL, code = status, info)` (60_exceptions.md R163). -/
structure Report where
  severity : Severity
  code : Status
  info : Word
  deriving DecidableEq, Repr

/-- One access on the image port (20_memory.md R36, R37); the offset is an unsigned integer (log
entry 11). -/
inductive ImageAccess where
  | read (r : Nat)
  | write (r : Nat) (b : Byte)
  deriving DecidableEq, Repr

/-- The image port's answer to one access (20_memory.md R36, R37). -/
inductive ImageReply where
  /-- the byte read -/
  | data (b : Byte)
  /-- the byte was written -/
  | written
  /-- `X_NO_PACKET`, signalled on the image port -/
  | noPacket
  /-- `X_IMG_RANGE`, signalled on the image port -/
  | imgRange
  deriving DecidableEq, Repr

/-- What the host presents to the block at one time (10_state.md R11, 20_memory.md R43,
70_reset_and_hazards.md R190). -/
inductive Presented where
  /-- one command word on the command port -/
  | command (w : CmdWord)
  /-- one access on the image port -/
  | image (a : ImageAccess)
  /-- a command and an image access outstanding at once, in either order -/
  | together (w : CmdWord) (a : ImageAccess)
  /-- the hardware reset, "an event between transactions" -/
  | reset
  deriving DecidableEq, Repr

/-- The six header registers (10_state.md R14 to R19). -/
structure Header where
  /-- `HDR.TYPE`, R14. -/
  type : BitVec 16
  /-- `HDR.SOURCE`, R15. -/
  source : BitVec 16
  /-- `HDR.CAP`, R16. -/
  cap : Word
  /-- `HDR.EVCNT`, R17. -/
  evcnt : Word
  /-- `HDR.VALCNT`, R18. -/
  valcnt : Word
  /-- `HDR.OVF`, R19. -/
  ovf : Word
  deriving DecidableEq, Repr

/-- `SEL = (present, w, idx)`, the record reference register (10_state.md R21). -/
structure RecordRef where
  present : Bool
  w : Bool
  idx : BitVec 31
  deriving DecidableEq, Repr

/-- `IT = (active, rev, vonly, mut, pos)`, the traversal register (10_state.md R22). -/
structure Traversal where
  active : Bool
  rev : Bool
  vonly : Bool
  mutable : Bool
  pos : Word
  deriving DecidableEq, Repr

/-- The record region's bytes by record-region offset, in the canonical form of `Memory.wf`
(10_state.md R20, 20_memory.md R30). -/
abbrev Memory := List Host.Cell

/-- The state: the block's own (10_state.md R10), the instance's parameters, what the host has
presented, and the histories of the three outputs (R26). -/
structure State where
  /-- the instance's parameters (00_scope.md R6); no step changes them (log entry 1) -/
  params : Params
  /-- `PKT`, R23 -/
  pkt : Bool
  /-- `HDR.*`, R14 to R19 -/
  hdr : Header
  /-- `REC`, R20, as the bytes of the record region -/
  mem : Memory
  /-- `SEL`, R21 -/
  sel : RecordRef
  /-- `IT`, R22 -/
  it : Traversal
  /-- presented and not yet accepted, next first (log entry 5) -/
  inbox : List Presented
  /-- how many port-order choices have been drawn (log entry 6) -/
  draws : Nat
  /-- the responses, oldest first (R26, log entry 7) -/
  responses : List Response
  /-- the reports on `LOG`, oldest first (R26, log entry 7) -/
  log : List Report
  /-- the image port's answers, oldest first (log entry 7) -/
  replies : List ImageReply
  deriving DecidableEq, Repr

/-- Why the machine stops. Both are raised only in states no run reaches (log entry 9). -/
inductive Fault where
  /-- Raised by a word access outside the record region, where `MemRead` and `MemWrite` are not
  defined (20_memory.md R35). Safe: the spec gives the access no meaning. -/
  | outsideRecordRegion (offset : Nat)
  /-- Raised by `ITNEXT` on a forward traversal at a negative position, for which there is no record
  slot (10_state.md R20, R22). Safe: the spec gives the access no meaning. -/
  | negativeSlot (slot : Int)
  deriving DecidableEq, Repr

/-- Why an instruction has no meaning here. The spec's own refusals (60_exceptions.md R162) are
responses and not this. -/
inductive Refusal where
  /-- Raised by an arm of `exec` whose command has no meaning yet; no arm raises it. Safe. -/
  | notModelled (mnemonic : String)
  deriving DecidableEq, Repr

/-- The outcome of a transaction. -/
abbrev Result := Host.Outcome State Fault Refusal

/-- The state after hardware reset: `PKT = 0`, `SEL.present = 0`, `IT.active = 0` (10_state.md R27,
70_reset_and_hazards.md R190); the fields the spec leaves unspecified at the values of log entries 2, 3
and 4; the parameters open (log entry 1). -/
def State.reset : State :=
  { params := Config.params
    pkt := false
    hdr := { type := 0, source := 0, cap := 0, evcnt := 0, valcnt := 0, ovf := 0 }
    mem := []
    sel := { present := false, w := false, idx := 0 }
    it := { active := false, rev := false, vonly := false, mutable := false, pos := 0 }
    inbox := []
    draws := 0
    responses := []
    log := []
    replies := [] }

end Sys2Proof.Machine
end

