-- ==== Sys2Proof/Machine/Flags.lean ====
section
/-! DEFINITION. What stands in the place of flags: the block has "no flags or condition codes: the
outcome of a command is its response status" (10_state.md R26). The status codes, which of them are
reported, and the response word (60_exceptions.md R160, 30_encoding.md R58). -/

namespace Sys2Proof.Machine

/-- The status code, `RSP[67:64]`; 7 and 15 are never produced (60_exceptions.md R160). -/
def Status.code : Status → BitVec 4
  | .ok => 0
  | .eBounds => 1
  | .eInvalidArg => 2
  | .eInvariant => 3
  | .eAllocFail => 4
  | .nTagMismatch => 5
  | .nEnd => 6
  | .xIllegalCmd => 8
  | .xNoPacket => 9
  | .xNullRef => 10
  | .xReadonlyRef => 11
  | .xAlreadyAllocated => 12
  | .xCountLimit => 13
  | .xTsReserved => 14

/-- The conditions reported on `LOG`: the source's four (60_exceptions.md R160, R163). -/
def Status.reported : Status → Bool
  | .eBounds => true
  | .eInvalidArg => true
  | .eInvariant => true
  | .eAllocFail => true
  | .ok => false
  | .nTagMismatch => false
  | .nEnd => false
  | .xIllegalCmd => false
  | .xNoPacket => false
  | .xNullRef => false
  | .xReadonlyRef => false
  | .xAlreadyAllocated => false
  | .xCountLimit => false
  | .xTsReserved => false

/-- `RSP = status[67:64] ‖ value[63:0]` (30_encoding.md R58). -/
def Response.word (r : Response) : BitVec 68 := r.status.code ++ r.value

end Sys2Proof.Machine
end

