-- ==== Sys2Proof/Machine/Operands.lean ====
section
/-! DEFINITION. The readings of `arg` (30_encoding.md R53, R57), the fields of a record's words (R50 to
R54) and the bytes of a word (20_memory.md R34). -/

namespace Sys2Proof.Machine

/-- `toS32`: the two's-complement value of a word (00_scope.md R7). -/
def toS32 (w : Word) : Int := w.toInt

/-- `toU32`: the unsigned value of a word (00_scope.md R7). -/
def toU32 (w : Word) : Nat := w.toNat

/-- `arg[15:0]`, the operand of class H (30_encoding.md R57). -/
def argHalf (arg : Word) : BitVec 16 := arg.extractLsb' 0 16

/-- `arg[31:16]`, which class H requires zero (30_encoding.md R57). -/
def argHigh (arg : Word) : BitVec 16 := arg.extractLsb' 16 16

/-- `get_f(data) = (data >> s) & m` (30_encoding.md R53). -/
def getField (s : Nat) (m data : Word) : Word := (data >>> s) &&& m

/-- `set_f(data, v) = (data & ~(m << s)) | ((v & m) << s)` (30_encoding.md R53). -/
def setField (s : Nat) (m data v : Word) : Word := (data &&& ~~~(m <<< s)) ||| ((v &&& m) <<< s)

/-- `CORE_SHIFT` (00_scope.md R5). -/
def coreShift : Nat := 1

/-- `CORE_MASK` (00_scope.md R5). -/
def coreMask : Word := 0x1F#32

/-- `CHIP_SHIFT` (00_scope.md R5). -/
def chipShift : Nat := 6

/-- `CHIP_MASK` (00_scope.md R5). -/
def chipMask : Word := 0x3F#32

/-- `NEURON_SHIFT` (00_scope.md R5). -/
def neuronShift : Nat := 12

/-- `NEURON_MASK` (00_scope.md R5). -/
def neuronMask : Word := 0xFFFFF#32

/-- `OVERFLOW_SHIFT` (00_scope.md R5, 90_conflicts.md C1). -/
def overflowShift : Nat := 31

/-- `getCore` (40_record_codec.md R70). -/
def getCore (data : Word) : Word := getField coreShift coreMask data

/-- `getChip` (40_record_codec.md R70). -/
def getChip (data : Word) : Word := getField chipShift chipMask data

/-- `getNeuron` (40_record_codec.md R70). -/
def getNeuron (data : Word) : Word := getField neuronShift neuronMask data

/-- `isValid`: bit 0 of the field word (40_record_codec.md R70). -/
def isValid (data : Word) : Bool := data.getLsbD 0

/-- `setCore` (40_record_codec.md R70). -/
def setCore (data v : Word) : Word := setField coreShift coreMask data v

/-- `setChip` (40_record_codec.md R70). -/
def setChip (data v : Word) : Word := setField chipShift chipMask data v

/-- `setNeuron` (40_record_codec.md R70). -/
def setNeuron (data v : Word) : Word := setField neuronShift neuronMask data v

/-- The field word with the validity mark set, `data | 0x00000001` (41_validity_bookkeeping.md R91). -/
def markValid (data : Word) : Word := data ||| 0x00000001#32

/-- The field word with the validity mark cleared, `data & 0xFFFFFFFE` (41_validity_bookkeeping.md R92). -/
def markInvalid (data : Word) : Word := data &&& 0xFFFFFFFE#32

/-- `ts[31]`, the record's one reserved bit (30_encoding.md R51, R54). -/
def tsReserved (ts : Word) : Bool := ts.getLsbD 31

/-- `ts64(ovf, ts) = (zext_64(ovf) << 31) | zext_64(ts)` (42_timestamp64.md R100). -/
def ts64 (ovf ts : Word) : Value := (ovf.setWidth 64 <<< overflowShift) ||| ts.setWidth 64

/-- `zext_64` of a word (00_scope.md R7). -/
def zext64 (w : Word) : Value := w.setWidth 64

/-- `sext_64` of a word (00_scope.md R7). -/
def sext64 (w : Word) : Value := w.signExtend 64

/-- A bit as a 64-bit value. -/
def bit64 (b : Bool) : Value := if b then 1 else 0

/-- Byte `j` of a word, `w[8*j + 7 : 8*j]` (20_memory.md R34). -/
def wordByte (w : Word) (j : Nat) : Byte := w.extractLsb' (8 * j) 8

/-- The little-endian word of four bytes,
`byte(a) | byte(a+1) << 8 | byte(a+2) << 16 | byte(a+3) << 24` (20_memory.md R34). -/
def wordOfBytes (b0 b1 b2 b3 : Byte) : Word :=
  b0.setWidth 32 ||| (b1.setWidth 32 <<< 8) ||| (b2.setWidth 32 <<< 16) ||| (b3.setWidth 32 <<< 24)

end Sys2Proof.Machine
end

