-- ==== Sys2Proof/Machine/Ops.lean ====
section
/-! DEFINITION. The operations every command is built from: the record region's bytes and words
(20_memory.md R30 to R35), responding and raising a condition (00_scope.md R8, 60_exceptions.md R160 to
R164), the gates (R165, R166), and the reference and traversal registers. -/

namespace Sys2Proof.Machine

/-! ### The record region as bytes -/

/-- What a byte of the record region that nothing has written reads as (log entry 3). -/
def unlistedByte : Byte := 0

/-- The byte at an offset (20_memory.md R34, R42). -/
def Memory.read : Memory → Nat → Byte
  | [], _ => unlistedByte
  | (k, b) :: m, a => if k = a then b else Memory.read m a

/-- The memory with the byte at one offset written (20_memory.md R35). -/
def Memory.write : Memory → Nat → Byte → Memory
  | [], a, v => if v = unlistedByte then [] else [(a, v)]
  | (k, b) :: m, a, v =>
    if a < k then (if v = unlistedByte then (k, b) :: m else (a, v) :: (k, b) :: m)
    else if a = k then (if v = unlistedByte then m else (a, v) :: m)
    else (k, b) :: Memory.write m a v

/-- The memory with every byte below an offset zero (44_access_alloc_header.md R131). -/
def Memory.clearBelow (m : Memory) (n : Nat) : Memory := m.filter fun c => decide (n ≤ c.1)

/-- The canonical form: offsets strictly rising, and no entry equal to an unlisted byte. -/
def Memory.wf : Memory → Bool
  | [] => true
  | c :: m => c.2 != unlistedByte && m.all (fun d => decide (c.1 < d.1)) && Memory.wf m

/-- The word at four consecutive offsets, little-endian (20_memory.md R34). -/
def Memory.word (m : Memory) (a : Nat) : Word :=
  wordOfBytes (m.read a) (m.read (a + 1)) (m.read (a + 2)) (m.read (a + 3))

/-- The memory with the word at four consecutive offsets written, little-endian (20_memory.md R35). -/
def Memory.writeWord (m : Memory) (a : Nat) (w : Word) : Memory :=
  (((m.write a (wordByte w 0)).write (a + 1) (wordByte w 1)).write (a + 2) (wordByte w 2)).write
    (a + 3) (wordByte w 3)

/-! ### The record region as records -/

/-- The size of the record region, `8 * HDR.CAP` bytes (20_memory.md R30). -/
def State.regionSize (s : State) : Nat := 8 * toU32 s.hdr.cap

/-- The byte size of the wire image of a packet of `cap` records, `HEADER_SIZE + 8 * cap`
(20_memory.md R32, 44_access_alloc_header.md R131). -/
def imageSize (p : Params) (cap : Nat) : Nat := p.headerSize + 8 * cap

/-- The wire-image offset of a record-region offset (20_memory.md R32). -/
def wireOffset (p : Params) (r : Nat) : Nat := p.headerSize + r

/-- Where the field word of slot `i` lies (20_memory.md R31). -/
def dataAddr (i : Nat) : Nat := 8 * i

/-- Where the timestamp word of slot `i` lies (20_memory.md R31). -/
def tsAddr (i : Nat) : Nat := 8 * i + 4

/-- `REC[i].data` as the bytes give it (00_scope.md R8). -/
def State.dataOf (s : State) (i : Nat) : Word := s.mem.word (dataAddr i)

/-- `REC[i].ts` as the bytes give it (00_scope.md R8). -/
def State.tsOf (s : State) (i : Nat) : Word := s.mem.word (tsAddr i)

/-- `cur`, the slot `SEL` selects (00_scope.md R8). -/
def State.cur (s : State) : Nat := s.sel.idx.toNat

/-- `MemRead(a, 4)`, defined for `a + 4 <= 8 * HDR.CAP` only (20_memory.md R34, R35). -/
def memRead4 (s : State) (a : Nat) : Except Fault Word :=
  if a + 4 ≤ s.regionSize then .ok (s.mem.word a) else .error (.outsideRecordRegion a)

/-- `MemWrite(a, 4, w)`, defined for `a + 4 <= 8 * HDR.CAP` only (20_memory.md R35). -/
def memWrite4 (s : State) (a : Nat) (w : Word) : Except Fault State :=
  if a + 4 ≤ s.regionSize then .ok { s with mem := s.mem.writeWord a w }
  else .error (.outsideRecordRegion a)

/-- Continue with a value, or stop with the fault met in computing it. -/
def orFault {α : Type} (x : Except Fault α) (k : α → Result) : Result :=
  match x with
  | .ok a => k a
  | .error f => .fault f

/-- Read `REC[i].data` (20_memory.md R39). -/
def readData (s : State) (i : Nat) : Except Fault Word := memRead4 s (dataAddr i)

/-- Write `REC[i].data` (20_memory.md R39). -/
def writeData (s : State) (i : Nat) (w : Word) : Except Fault State := memWrite4 s (dataAddr i) w

/-- Read `REC[i].ts` (20_memory.md R39). -/
def readTs (s : State) (i : Nat) : Except Fault Word := memRead4 s (tsAddr i)

/-- Write `REC[i].ts` (20_memory.md R39). -/
def writeTs (s : State) (i : Nat) (w : Word) : Except Fault State := memWrite4 s (tsAddr i) w

/-! ### Completing a command -/

/-- `respond(value)`: the command completes with status `OK` (00_scope.md R8). -/
def State.respond (s : State) (value : Value) : State :=
  { s with responses := s.responses ++ [{ status := .ok, value := value }] }

/-- The reports a command with status `c` sends: exactly one for a reported condition, none for any
other (60_exceptions.md R163). -/
def reportsOf (c : Status) (info : Word) : List Report :=
  if c.reported then [{ severity := .critical, code := c, info := info }] else []

/-- `raise <Condition>(info)`: the one shared operation by which a condition is taken. The command
completes with the condition's status and value 0, with one report if the condition is a reported one,
and nothing else changes: no state is saved and control stays with the host (00_scope.md R8,
60_exceptions.md R164, R168). -/
def State.raise (s : State) (c : Status) (info : Word) : State :=
  { s with
    responses := s.responses ++ [{ status := c, value := 0 }]
    log := s.log ++ reportsOf c info }

/-- A command that ends with an unreported condition; such a condition carries nothing. -/
def refuse (s : State) (c : Status) : Result := .next (s.raise c 0)

/-! ### The gates (60_exceptions.md R165, R166) -/

/-- The illegal-word test of a class H command, the first test of its gate (60_exceptions.md R166, log
entry 10). -/
def gateHalf (arg : Word) (s : State) (k : Result) : Result :=
  if argHigh arg = 0 then k else refuse s .xIllegalCmd

/-- `gate(H)`: a packet must exist. -/
def gateH (s : State) (k : Result) : Result :=
  if s.pkt then k else refuse s .xNoPacket

/-- `gate(A)`: no packet may exist. -/
def gateA (s : State) (k : Result) : Result :=
  if s.pkt then refuse s .xAlreadyAllocated else k

/-- `HDR.TYPE = SPIKE_EVENT_TAG` (10_state.md R14). -/
def State.tagMatches (s : State) : Bool := s.hdr.type == s.params.spikeEventTag

/-- The tag test, after which the layout may be applied (60_exceptions.md R166). -/
def checkTag (s : State) (k : Result) : Result :=
  if s.tagMatches then k else refuse s .nTagMismatch

/-- `gate(P)` (43_traversal.md R111). -/
def gateP (s : State) (k : Result) : Result := gateH s (checkTag s k)

/-- `gate(R)` (40_record_codec.md R71). -/
def gateR (s : State) (k : Result) : Result :=
  gateP s (if s.sel.present then k else refuse s .xNullRef)

/-- `gate(W)` (40_record_codec.md R71). -/
def gateW (s : State) (k : Result) : Result :=
  gateR s (if s.sel.w then k else refuse s .xReadonlyRef)

/-! ### The reference and the traversal -/

/-- `SEL <- (present = 1, w, idx)` (44_access_alloc_header.md R130, 43_traversal.md R120). -/
def State.select (s : State) (w : Bool) (idx : Nat) : State :=
  { s with sel := { present := true, w := w, idx := BitVec.ofNat 31 idx } }

/-- `SEL.present <- 0` (44_access_alloc_header.md R130). -/
def State.dropRef (s : State) : State := { s with sel := { s.sel with present := false } }

/-- `IT.active <- 0` (43_traversal.md R120). -/
def State.endTraversal (s : State) : State := { s with it := { s.it with active := false } }

/-- `IT.pos <- next`: one step up, or down in a reverse traversal (43_traversal.md R120). -/
def State.advance (s : State) : State :=
  { s with it := { s.it with pos := if s.it.rev then s.it.pos - 1 else s.it.pos + 1 } }

/-- A read of one header register: `gate(H)`, then the register zero-extended
(44_access_alloc_header.md, section 4). -/
def readHeader (s : State) (v : Value) : Result := gateH s (.next (s.respond v))

/-- `HDR.* <- h` and complete (44_access_alloc_header.md, section 5). -/
def State.setHdr (s : State) (h : Header) : State := { s with hdr := h }

/-- Read `REC[cur].data`, write it back changed, and complete: the read-modify-write of a setter
(20_memory.md R39, R40). -/
def modifyData (s : State) (f : Word → Word) (k : State → State) : Result :=
  orFault (readData s s.cur) fun d =>
    orFault (writeData s s.cur (f d)) fun s' => .next ((k s').respond 0)

end Sys2Proof.Machine
end

