-- ==== Sys2Proof/Machine/Access.lean ====
section
/-! DEFINITION. Indexed access, creation, release and the view check (44_access_alloc_header.md R130 to
R133). -/

namespace Sys2Proof.Machine

/-- `GETEVENT n` (44_access_alloc_header.md R130). -/
def execGetevent (n : Word) (s : State) : Result :=
  gateP s
    (if toS32 n < 0 ∨ (toU32 s.hdr.cap : Int) ≤ toS32 n then .next (s.dropRef.raise .eBounds n)
     else .next ((s.select true (toU32 n)).respond (zext64 n)))

/-- The creation fails: a negative capacity, one above `MAX_CAPACITY`, or a byte size that would overflow
the size type, on unbounded integers (44_access_alloc_header.md R131). -/
def allocFails (p : Params) (cap : Word) : Bool :=
  decide (toS32 cap < 0) || decide (p.maxCapacity < toU32 cap)
    || decide (2 ^ p.sizeBits - 1 < imageSize p (toU32 cap))

/-- The created packet: column "after a successful `ALLOC cap`" of 10_state.md R27
(44_access_alloc_header.md R131). -/
def State.create (s : State) (cap : Word) : State :=
  { s with
    pkt := true
    hdr := { type := s.params.spikeEventTag, source := 0, cap := cap, evcnt := 0, valcnt := 0, ovf := 0 }
    mem := s.mem.clearBelow (8 * toU32 cap)
    sel := { s.sel with present := false }
    it := { s.it with active := false } }

/-- `ALLOC cap` (44_access_alloc_header.md R131). -/
def execAlloc (cap : Word) (s : State) : Result :=
  gateA s
    (.next
      (if allocFails s.params cap then s.raise .eAllocFail cap
       else (s.create cap).respond (BitVec.ofNat 64 (imageSize s.params (toU32 cap)))))

/-- `PKT <- 0 ; SEL.present <- 0 ; IT.active <- 0` (44_access_alloc_header.md R132). -/
def State.release (s : State) : State :=
  { s with
    pkt := false
    sel := { s.sel with present := false }
    it := { s.it with active := false } }

/-- `FREE` (44_access_alloc_header.md R132). -/
def execFree (s : State) : Result := gateH s (.next (s.release.respond 0))

/-- `VIEW` (44_access_alloc_header.md R133). -/
def execView (s : State) : Result := gateH s (checkTag s (.next (s.respond 0)))

end Sys2Proof.Machine
end

