-- ==== Sys2Proof/Machine/Bookkeeping.lean ====
section
/-! DEFINITION. The validity bookkeeping commands (41_validity_bookkeeping.md R90 to R94). -/

namespace Sys2Proof.Machine

/-- The index the report of a double validate or invalidate carries, the selected slot
(41_validity_bookkeeping.md R91, R92; 60_exceptions.md R161). -/
def State.curWord (s : State) : Word := s.sel.idx.setWidth 32

/-- `HDR.EVCNT <- HDR.EVCNT + 1 ; HDR.VALCNT <- HDR.VALCNT + 1` (41_validity_bookkeeping.md R91). -/
def State.countIn (s : State) : State :=
  s.setHdr { s.hdr with evcnt := s.hdr.evcnt + 1, valcnt := s.hdr.valcnt + 1 }

/-- `HDR.VALCNT <- HDR.VALCNT - 1` (41_validity_bookkeeping.md R92). -/
def State.countOut (s : State) : State := s.setHdr { s.hdr with valcnt := s.hdr.valcnt - 1 }

/-- `VALIDATE` (41_validity_bookkeeping.md R91). -/
def execValidate (s : State) : Result :=
  gateW s
    (orFault (readData s s.cur) fun d =>
      if isValid d then .next (s.raise .eInvariant s.curWord)
      else if toU32 s.hdr.cap ≤ toU32 s.hdr.evcnt then refuse s .xCountLimit
      else modifyData s markValid State.countIn)

/-- `INVALIDATE` (41_validity_bookkeeping.md R92). -/
def execInvalidate (s : State) : Result :=
  gateW s
    (orFault (readData s s.cur) fun d =>
      if !isValid d then .next (s.raise .eInvariant s.curWord)
      else if toU32 s.hdr.valcnt = 0 then refuse s .xCountLimit
      else modifyData s markInvalid State.countOut)

end Sys2Proof.Machine
end

