-- ==== Sys2Proof/Machine/Codec.lean ====
section
/-! DEFINITION. The record codec commands (40_record_codec.md R70 to R82). -/

namespace Sys2Proof.Machine

/-- A getter of the field word: `gate(R)`, then the value the field gives (40_record_codec.md R71). -/
def getFromData (s : State) (f : Word → Value) : Result :=
  gateR s (orFault (readData s s.cur) fun d => .next (s.respond (f d)))

/-- A setter of the field word: `gate(W)`, then the read-modify-write (40_record_codec.md R71). -/
def setInData (s : State) (f : Word → Word) : Result := gateW s (modifyData s f id)

/-- `GETCORE` (40_record_codec.md R72). -/
def execGetcore (s : State) : Result := getFromData s fun d => zext64 (getCore d)

/-- `SETCORE v` (40_record_codec.md R73). -/
def execSetcore (v : Word) (s : State) : Result := setInData s fun d => setCore d v

/-- `GETCHIP` (40_record_codec.md R74). -/
def execGetchip (s : State) : Result := getFromData s fun d => zext64 (getChip d)

/-- `SETCHIP v` (40_record_codec.md R75). -/
def execSetchip (v : Word) (s : State) : Result := setInData s fun d => setChip d v

/-- `GETNEURON` (40_record_codec.md R76). -/
def execGetneuron (s : State) : Result := getFromData s fun d => zext64 (getNeuron d)

/-- `SETNEURON v` (40_record_codec.md R77). -/
def execSetneuron (v : Word) (s : State) : Result := setInData s fun d => setNeuron d v

/-- `GETTS` (40_record_codec.md R78). -/
def execGetts (s : State) : Result :=
  gateR s (orFault (readTs s s.cur) fun t => .next (s.respond (sext64 t)))

/-- `SETTS t` (40_record_codec.md R79). -/
def execSetts (t : Word) (s : State) : Result :=
  gateW s
    (if toS32 t < 0 then .next (s.raise .eInvalidArg t)
     else orFault (writeTs s s.cur t) fun s' => .next (s'.respond 0))

/-- `ISVALID` (40_record_codec.md R80). -/
def execIsvalid (s : State) : Result := getFromData s fun d => bit64 (isValid d)

end Sys2Proof.Machine
end

