-- ==== Sys2Proof/Machine/HeaderCommands.lean ====
section
/-! DEFINITION. The header reads and writes (44_access_alloc_header.md R134 to R144). -/

namespace Sys2Proof.Machine

/-- `RDTYPE` (44_access_alloc_header.md R134). -/
def execRdtype (s : State) : Result := readHeader s (s.hdr.type.setWidth 64)

/-- `RDSOURCE` (44_access_alloc_header.md R135). -/
def execRdsource (s : State) : Result := readHeader s (s.hdr.source.setWidth 64)

/-- `RDCAP` (44_access_alloc_header.md R136). -/
def execRdcap (s : State) : Result := readHeader s (zext64 s.hdr.cap)

/-- `RDEVCNT` (44_access_alloc_header.md R137). -/
def execRdevcnt (s : State) : Result := readHeader s (zext64 s.hdr.evcnt)

/-- `RDVALCNT` (44_access_alloc_header.md R138). -/
def execRdvalcnt (s : State) : Result := readHeader s (zext64 s.hdr.valcnt)

/-- `RDOVF` (44_access_alloc_header.md R139). -/
def execRdovf (s : State) : Result := readHeader s (zext64 s.hdr.ovf)

/-- `WRTYPE v` (44_access_alloc_header.md R140). -/
def execWrtype (v : Word) (s : State) : Result :=
  gateHalf v s (gateH s (.next ((s.setHdr { s.hdr with type := argHalf v }).respond 0)))

/-- `WRSOURCE v` (44_access_alloc_header.md R141). -/
def execWrsource (v : Word) (s : State) : Result :=
  gateHalf v s (gateH s (.next ((s.setHdr { s.hdr with source := argHalf v }).respond 0)))

/-- `WREVCNT v` (44_access_alloc_header.md R142). -/
def execWrevcnt (v : Word) (s : State) : Result :=
  gateH s
    (if toU32 v < toU32 s.hdr.valcnt ∨ toU32 s.hdr.cap < toU32 v then refuse s .xCountLimit
     else .next ((s.setHdr { s.hdr with evcnt := v }).respond 0))

/-- `WRVALCNT v` (44_access_alloc_header.md R143). -/
def execWrvalcnt (v : Word) (s : State) : Result :=
  gateH s
    (if toU32 s.hdr.evcnt < toU32 v then refuse s .xCountLimit
     else .next ((s.setHdr { s.hdr with valcnt := v }).respond 0))

/-- `WROVF v` (44_access_alloc_header.md R144). -/
def execWrovf (v : Word) (s : State) : Result :=
  gateH s (.next ((s.setHdr { s.hdr with ovf := v }).respond 0))

end Sys2Proof.Machine
end

