-- ==== Sys2Proof/Machine/Timestamp.lean ====
section
/-! DEFINITION. The 64-bit timestamp reconstruction (42_timestamp64.md R100 to R103). -/

namespace Sys2Proof.Machine

/-- `GETTS64` (42_timestamp64.md R101). -/
def execGetts64 (s : State) : Result :=
  gateR s
    (orFault (readTs s s.cur) fun t =>
      if tsReserved t then refuse s .xTsReserved else .next (s.respond (ts64 s.hdr.ovf t)))

end Sys2Proof.Machine
end

