-- ==== Sys2Proof/Machine/Traversal.lean ====
section
/-! DEFINITION. The traversal commands (43_traversal.md R110 to R122). -/

namespace Sys2Proof.Machine

/-- `start(mut, rev, vonly)` behind `gate(P)` (43_traversal.md R111). -/
def startTraversal (mutable rev vonly : Bool) (s : State) : Result :=
  gateP s
    (.next
      (State.respond
        { s with
          it := { active := true, rev := rev, vonly := vonly, mutable := mutable,
                  pos := if rev then s.hdr.evcnt - 1 else 0 } } 0))

/-- `ITFA` (43_traversal.md R112). -/
def execItfa (s : State) : Result := startTraversal false false false s

/-- `ITFV` (43_traversal.md R113). -/
def execItfv (s : State) : Result := startTraversal false false true s

/-- `ITRA` (43_traversal.md R114). -/
def execItra (s : State) : Result := startTraversal false true false s

/-- `ITRV` (43_traversal.md R115). -/
def execItrv (s : State) : Result := startTraversal false true true s

/-- `ITFAM` (43_traversal.md R116). -/
def execItfam (s : State) : Result := startTraversal true false false s

/-- `ITFVM` (43_traversal.md R117). -/
def execItfvm (s : State) : Result := startTraversal true false true s

/-- `ITRAM` (43_traversal.md R118). -/
def execItram (s : State) : Result := startTraversal true true false s

/-- `ITRVM` (43_traversal.md R119). -/
def execItrvm (s : State) : Result := startTraversal true true true s

/-- How many positions lie between `IT.pos` and the end the traversal runs to, that position counted:
0 exactly when the end test of its direction holds, `p >= HDR.EVCNT` forward and `p < 0` reverse
(43_traversal.md R120; log entry 12). -/
def positionsLeft (s : State) : Nat :=
  if s.it.rev then (toS32 s.it.pos + 1).toNat else (toU32 s.hdr.evcnt - toS32 s.it.pos).toNat

/-- Whether a valid-only traversal skips slot `p`; an all-slot traversal does not read the record
(43_traversal.md R120, 20_memory.md R39). -/
def skipsSlot (s : State) (p : Nat) : Except Fault Bool :=
  if s.it.vonly then (readData s p).map fun d => !isValid d else .ok false

/-- The loop of `ITNEXT`, its first argument `positionsLeft` (43_traversal.md R120; log entry 12). -/
def scan : Nat → State → Result
  | 0, s => refuse s.endTraversal .nEnd
  | k + 1, s =>
    match toS32 s.it.pos with
    | .negSucc n => .fault (.negativeSlot (.negSucc n))
    | .ofNat p =>
      if toU32 s.hdr.cap ≤ p then .next (s.endTraversal.raise .eBounds s.it.pos)
      else
        orFault (skipsSlot s p) fun skip =>
          if skip then scan k s.advance
          else .next ((s.advance.select s.it.mutable p).respond (BitVec.ofNat 64 p))

/-- `ITNEXT` (43_traversal.md R120). -/
def execItnext (s : State) : Result :=
  gateP s (if s.it.active then scan (positionsLeft s) s else refuse s .nEnd)

end Sys2Proof.Machine
end

