-- ==== Sys2Proof/Machine/Dispatch.lean ====
section
/-! DEFINITION. The meaning of each command, one arm per constructor. -/

namespace Sys2Proof.Machine

open Host

def exec (i : Instr) (s : State) : Host.Outcome State Fault Refusal :=
  match i with
  | .getcore => Sys2Proof.Machine.execGetcore s
  | .setcore v => Sys2Proof.Machine.execSetcore v s
  | .getchip => Sys2Proof.Machine.execGetchip s
  | .setchip v => Sys2Proof.Machine.execSetchip v s
  | .getneuron => Sys2Proof.Machine.execGetneuron s
  | .setneuron v => Sys2Proof.Machine.execSetneuron v s
  | .getts => Sys2Proof.Machine.execGetts s
  | .setts t => Sys2Proof.Machine.execSetts t s
  | .isvalid => Sys2Proof.Machine.execIsvalid s
  | .validate => Sys2Proof.Machine.execValidate s
  | .invalidate => Sys2Proof.Machine.execInvalidate s
  | .getts64 => Sys2Proof.Machine.execGetts64 s
  | .itfa => Sys2Proof.Machine.execItfa s
  | .itfv => Sys2Proof.Machine.execItfv s
  | .itra => Sys2Proof.Machine.execItra s
  | .itrv => Sys2Proof.Machine.execItrv s
  | .itfam => Sys2Proof.Machine.execItfam s
  | .itfvm => Sys2Proof.Machine.execItfvm s
  | .itram => Sys2Proof.Machine.execItram s
  | .itrvm => Sys2Proof.Machine.execItrvm s
  | .itnext => Sys2Proof.Machine.execItnext s
  | .getevent n => Sys2Proof.Machine.execGetevent n s
  | .alloc cap => Sys2Proof.Machine.execAlloc cap s
  | .free => Sys2Proof.Machine.execFree s
  | .view => Sys2Proof.Machine.execView s
  | .rdtype => Sys2Proof.Machine.execRdtype s
  | .rdsource => Sys2Proof.Machine.execRdsource s
  | .rdcap => Sys2Proof.Machine.execRdcap s
  | .rdevcnt => Sys2Proof.Machine.execRdevcnt s
  | .rdvalcnt => Sys2Proof.Machine.execRdvalcnt s
  | .rdovf => Sys2Proof.Machine.execRdovf s
  | .wrtype v => Sys2Proof.Machine.execWrtype v s
  | .wrsource v => Sys2Proof.Machine.execWrsource v s
  | .wrevcnt v => Sys2Proof.Machine.execWrevcnt v s
  | .wrvalcnt v => Sys2Proof.Machine.execWrvalcnt v s
  | .wrovf v => Sys2Proof.Machine.execWrovf v s

end Sys2Proof.Machine
end

