-- ==== Sys2Proof/Machine/ImagePort.lean ====
section
/-! DEFINITION. The image port (20_memory.md R36, R37). -/

namespace Sys2Proof.Machine

/-- The image port answers. -/
def State.reply (s : State) (r : ImageReply) : State := { s with replies := s.replies ++ [r] }

/-- `MemWrite(r, 1, b)` (20_memory.md R35). -/
def State.writeByte (s : State) (r : Nat) (b : Byte) : State := { s with mem := s.mem.write r b }

/-- Image read: no state of the block changes (20_memory.md R36). -/
def imageRead (r : Nat) (s : State) : State :=
  if !s.pkt then s.reply .noPacket
  else if s.regionSize ≤ r then s.reply .imgRange
  else s.reply (.data (s.mem.read r))

/-- Image write: one byte of one record word and nothing else (20_memory.md R37). -/
def imageWrite (r : Nat) (b : Byte) (s : State) : State :=
  if !s.pkt then s.reply .noPacket
  else if s.regionSize ≤ r then s.reply .imgRange
  else (s.writeByte r b).reply .written

/-- One image-port access (20_memory.md R36, R37). -/
def imageAccess (a : ImageAccess) (s : State) : State :=
  match a with
  | .read r => imageRead r s
  | .write r b => imageWrite r b s

end Sys2Proof.Machine
end

