-- ==== Sys2Proof/Machine/Transaction.lean ====
section
/-! DEFINITION. Accepting what the host presents: one transaction, or the hardware reset
(10_state.md R11, R13; 20_memory.md R40, R43; 70_reset_and_hazards.md R190, R204). -/

namespace Sys2Proof.Machine

/-- Accept one command word: run the command it decodes to, or answer `X_ILLEGAL_CMD`
(30_encoding.md R59, 60_exceptions.md R166). -/
def acceptCommand (w : CmdWord) (s : State) : Result :=
  match decode w with
  | .ok i => exec i s
  | .error _ => refuse s .xIllegalCmd

/-- The hardware reset, between two transactions: the block's state is that of `State.reset`; the
instance, what the host still presents and the histories are no state of the block and stay
(10_state.md R26, R27; 70_reset_and_hazards.md R190; log entry 13). -/
def State.hardReset (s : State) : State :=
  { State.reset with
    params := s.params
    inbox := s.inbox
    draws := s.draws
    responses := s.responses
    log := s.log
    replies := s.replies }

/-- The state with one item of the inbox taken and `rest` left. -/
def State.take (s : State) (rest : List Presented) : State := { s with inbox := rest }

/-- The state with one port-order choice drawn (20_memory.md R43). -/
def State.draw (s : State) : State := { s with draws := s.draws + 1 }

/-- Accept the next transaction of a presentation; of two outstanding together the one the free choice
names, the other staying first in the inbox (20_memory.md R43). -/
def accept (p : Presented) (rest : List Presented) (s : State) : Result :=
  match p with
  | .command w => acceptCommand w (s.take rest)
  | .image a => .next (imageAccess a (s.take rest))
  | .together w a =>
    if Config.commandFirst s.draws then acceptCommand w (s.draw.take (.image a :: rest))
    else .next (imageAccess a (s.draw.take (.command w :: rest)))
  | .reset => .next (s.take rest).hardReset

/-- The command word an opcode-table row's bits stand for (30_encoding.md R55). -/
def tableWord (nbits w : Nat) : CmdWord := BitVec.ofNat 40 (w % 2 ^ nbits)

end Sys2Proof.Machine
end

