-- ==== Sys2Proof/Machine/Step.lean ====
section
/-! DEFINITION. One step: one transaction (70_reset_and_hazards.md R203, R204). -/

namespace Sys2Proof.Machine

/-- Accept the next thing presented. With nothing presented the block is quiescent: "nothing is pending,
nothing is in flight and no state changes" (70_reset_and_hazards.md R204). -/
def step (s : State) : Host.Outcome State Fault Refusal :=
  match s.inbox with
  | [] => .next s
  | p :: rest => accept p rest s

/-- `s` with a command word presented as the next transaction: the block fetches nothing, the host
presents each command (10_state.md R13; log entry 5). -/
def State.withFetchWord (s : State) (nbits w : Nat) : State :=
  { s with inbox := .command (tableWord nbits w) :: s.inbox }

end Sys2Proof.Machine
end

