-- ==== Sys2Proof/Safety.lean ====
section
/-! DEFINITION. What counts as a good state and a safe run, and the terms the claims are stated in:
the invariant, the gates as the table of 60_exceptions.md R165 gives them, sequences of commands, and
what an observer of the block can tell apart. -/

namespace Sys2Proof.Machine

/-- The machine invariant: what the spec says is true in every state a run reaches. -/
structure State.Inv (s : State) : Prop where
  /-- the parameters are in the ranges of 00_scope.md R6 -/
  params_wf : s.params.wf = true
  /-- invariant I2, `0 <= HDR.VALCNT <= HDR.EVCNT <= HDR.CAP`, while a packet exists, and
  `HDR.CAP <= MAX_CAPACITY` (10_state.md R16, R24) -/
  books : s.pkt = true → toU32 s.hdr.valcnt ≤ toU32 s.hdr.evcnt ∧ toU32 s.hdr.evcnt ≤ toU32 s.hdr.cap ∧
    toU32 s.hdr.cap ≤ s.params.maxCapacity
  /-- a reference is to a slot of the packet (10_state.md R21) -/
  ref : s.sel.present = true → s.pkt = true ∧ s.cur < toU32 s.hdr.cap
  /-- an active traversal stands at a slot of the packet or one step past its end (10_state.md R22,
  43_traversal.md R120) -/
  traversal : s.it.active = true → s.pkt = true ∧
    (if s.it.rev then -1 ≤ toS32 s.it.pos ∧ toS32 s.it.pos < (toU32 s.hdr.cap : Int)
     else 0 ≤ toS32 s.it.pos ∧ toS32 s.it.pos ≤ (toU32 s.hdr.cap : Int))
  /-- the memory is in canonical form -/
  mem_wf : s.mem.wf = true
  /-- the block has `MAX_CAPACITY` slots (00_scope.md R6, 10_state.md R20) -/
  mem_bound : ∀ c ∈ s.mem, c.1 < 8 * s.params.maxCapacity

/-- An outcome that goes on. -/
def Continues (o : Result) : Prop := ∃ t, o = .next t

/-! ### The gates, as the table of R165 lists them -/

/-- The gate classes (60_exceptions.md R165). -/
inductive Gate where
  | W
  | R
  | P
  | H
  | A
  deriving DecidableEq, Repr

/-- The gate of a command (60_exceptions.md R165). -/
def gateOf : Instr → Gate
  | .setcore _ | .setchip _ | .setneuron _ | .setts _ | .validate | .invalidate => .W
  | .getcore | .getchip | .getneuron | .getts | .isvalid | .getts64 => .R
  | .getevent _ | .itfa | .itfv | .itra | .itrv | .itfam | .itfvm | .itram | .itrvm | .itnext => .P
  | .rdtype | .rdsource | .rdcap | .rdevcnt | .rdvalcnt | .rdovf => .H
  | .wrtype _ | .wrsource _ | .wrevcnt _ | .wrvalcnt _ | .wrovf _ | .free | .view => .H
  | .alloc _ => .A

/-- The checks of a gate after the illegal-word test, in order: each with whether it fails and the
status it raises (60_exceptions.md R165, R166). -/
def gateChecks (g : Gate) (s : State) : List (Bool × Status) :=
  let noPacket := (!s.pkt, Status.xNoPacket)
  let tag := (s.hdr.type != s.params.spikeEventTag, Status.nTagMismatch)
  let null := (!s.sel.present, Status.xNullRef)
  let readonly := (!s.sel.w, Status.xReadonlyRef)
  match g with
  | .W => [noPacket, tag, null, readonly]
  | .R => [noPacket, tag, null]
  | .P => [noPacket, tag]
  | .H => [noPacket]
  | .A => [(s.pkt, Status.xAlreadyAllocated)]

/-- The status of the first check that fails: "the one reported is the first in this order, and no later
test is made" (60_exceptions.md R166). -/
def firstFailing : List (Bool × Status) → Option Status
  | [] => none
  | (fails, c) :: rest => if fails then some c else firstFailing rest

/-- The status a gate stops a legal command with, if it does. -/
def gateStatus (g : Gate) (s : State) : Option Status := firstFailing (gateChecks g s)

/-- The state after a command that answers `c` with value `v` and has no other effect. -/
def answering (s : State) (c : Status) (v : Value) : State :=
  { s with responses := s.responses ++ [{ status := c, value := v }] }

/-- The state after a reported condition `c` with report info `info` and no other effect. -/
def reporting (s : State) (c : Status) (info : Word) : State :=
  { s with
    responses := s.responses ++ [{ status := c, value := 0 }]
    log := s.log ++ [{ severity := .critical, code := c, info := info }] }

/-- `REC[cur]` is a slot of the packet, which every reference of a run is (10_state.md R21). -/
def State.curInPacket (s : State) : Prop := s.cur < toU32 s.hdr.cap

/-- The command completes with `OK` and value 0, stores the word `w` in the four bytes at `a`, leaves the
header registers at `h`, and changes nothing else: no other byte of the record region, no other field. -/
def storesWord (i : Instr) (s : State) (a : Nat) (w : Word) (h : Header) : Prop :=
  ∃ t, exec i s = .next t ∧ t.responses = s.responses ++ [{ status := .ok, value := 0 }] ∧
    t.mem.word a = w ∧ (∀ b, b < a ∨ a + 4 ≤ b → t.mem.read b = s.mem.read b) ∧ t.hdr = h ∧
    { t with mem := s.mem, hdr := s.hdr, responses := s.responses } = s

/-- The creation operands `ALLOC` accepts (44_access_alloc_header.md R131). -/
def allocFits (p : Params) (cap : Word) : Prop :=
  0 ≤ toS32 cap ∧ toS32 cap ≤ (p.maxCapacity : Int) ∧
    (p.headerSize : Int) + 8 * toS32 cap ≤ 2 ^ p.sizeBits - 1

/-- The `info` of the report a command sends when it sends one (60_exceptions.md R161, R163): `s` before
the command, `t` after. -/
def reportInfo (i : Instr) (s t : State) : Word :=
  match i with
  | .getevent n => n
  | .setts v => v
  | .alloc cap => cap
  | .itnext => t.it.pos
  | _ => s.sel.idx.setWidth 32

/-- The `op` values R59 lists as reserved (30_encoding.md R59). -/
def reservedOp (op : BitVec 8) : Bool :=
  let n := op.toNat
  let within (lo hi : Nat) := decide (lo ≤ n) && decide (n ≤ hi)
  within 0x00 0x0F || within 0x19 0x1F || within 0x22 0x2F || within 0x31 0x3F || within 0x49 0x4F ||
    within 0x54 0x5F || n == 0x66 || n == 0x67 || n == 0x6A || n == 0x6E || n == 0x6F || within 0x70 0xFF

/-! ### Sequences of commands -/

/-- The commands in order, stopping at the first that does not go on (70_reset_and_hazards.md R204). -/
def execAll : List Instr → State → Result
  | [], s => .next s
  | i :: is, s =>
    match exec i s with
    | .next t => execAll is t
    | .fault f => .fault f
    | .refused r => .refused r

/-- `GETEVENT i`, `VALIDATE` for each slot (41_validity_bookkeeping.md R93). -/
def validateSlots (slots : List Nat) : List Instr :=
  slots.flatMap fun i => [.getevent (BitVec.ofNat 32 i), .validate]

/-- `GETEVENT i`, `INVALIDATE` for each slot (41_validity_bookkeeping.md R93). -/
def invalidateSlots (slots : List Nat) : List Instr :=
  slots.flatMap fun i => [.getevent (BitVec.ofNat 32 i), .invalidate]

/-- `HDR.VALCNT` equals the number of Valid slots of the packet: the form of invariant I3 the block keeps
by itself (10_state.md R24). -/
def State.countAgrees (s : State) : Prop :=
  s.pkt = true →
    toU32 s.hdr.valcnt = (List.range (toU32 s.hdr.cap)).countP fun i => isValid (s.dataOf i)

/-- The start command of a strategy in one of its forms (43_traversal.md R111). -/
def startInstr (mutable rev vonly : Bool) : Instr :=
  match mutable, rev, vonly with
  | false, false, false => .itfa
  | false, false, true => .itfv
  | false, true, false => .itra
  | false, true, true => .itrv
  | true, false, false => .itfam
  | true, false, true => .itfvm
  | true, true, false => .itram
  | true, true, true => .itrvm

/-- A traversal visits slot `i` (43_traversal.md R110). -/
def State.visits (s : State) (vonly : Bool) (i : Nat) : Bool := !vonly || isValid (s.dataOf i)

/-- The indices a traversal of `s` produces, in order (43_traversal.md R121). -/
def State.traversalIndices (s : State) (rev vonly : Bool) : List Nat :=
  let ascending := (List.range (toU32 s.hdr.evcnt)).filter (s.visits vonly)
  if rev then ascending.reverse else ascending

/-! ### What can be observed -/

/-- Two states no sequence of transactions should tell apart: they agree on everything but what the spec
calls unobservable (10_state.md R20, R21, R22, R27). -/
structure State.ObsEq (s t : State) : Prop where
  params : s.params = t.params
  inbox : s.inbox = t.inbox
  draws : s.draws = t.draws
  responses : s.responses = t.responses
  log : s.log = t.log
  replies : s.replies = t.replies
  pkt : s.pkt = t.pkt
  hdr : s.pkt = true → s.hdr = t.hdr
  mem : s.pkt = true → ∀ a, a < s.regionSize → s.mem.read a = t.mem.read a
  present : s.pkt = true → s.sel.present = t.sel.present
  sel : s.pkt = true → s.sel.present = true → s.sel = t.sel
  active : s.pkt = true → s.it.active = t.it.active
  it : s.pkt = true → s.it.active = true → s.it = t.it

end Sys2Proof.Machine
end

