-- ==== Sys2Proof/Certificates/Slice0/Obligations.lean ====
section
/-! DEFINITION. The statements about the model, for the provers. Each docstring names the rule of spec/ it
formalises, or says that it is derived or the model's own choice. -/

open Sys2Proof Sys2Proof.Machine

/-! ### Encoding -/

/-- Decoding an encoded command gives it back (derived from 30_encoding.md R55 to R57, R61). -/
def Obligations.DecodeAfterEncode : Prop :=
  ∀ i : Instr, i.wellFormed = true → decode (encode i) = .ok i

/-- A word that decodes is the encoding of what it decodes to, a well-formed command (derived from
30_encoding.md R55 to R57, R61). -/
def Obligations.EncodeAfterDecode : Prop :=
  ∀ (w : CmdWord) (i : Instr), decode w = .ok i → i.wellFormed = true ∧ encode i = w

/-- R59: every 40-bit word selects exactly one row of the opcode table and decodes to that row's command,
or selects none, is illegal, and is answered `X_ILLEGAL_CMD` in every state with no other change; the
listed `op` values are reserved, and so is the all-zero word. -/
def Obligations.CommandWordsTotal : Prop :=
  (∀ w : CmdWord,
    (∃ i, decode w = .ok i ∧ i.row ∈ opcodeTable ∧ i.row.selects w = true ∧
        ∀ r ∈ opcodeTable, r.selects w = true → r = i.row) ∨
      ((∀ r ∈ opcodeTable, r.selects w = false) ∧ (∃ e, decode w = .error e) ∧
        ∀ (s : State) (rest : List Presented), s.inbox = .command w :: rest →
          step s = .next (answering { s with inbox := rest } .xIllegalCmd 0))) ∧
    (∀ w : CmdWord, reservedOp (w.extractLsb' 32 8) = true → ∀ r ∈ opcodeTable, r.selects w = false) ∧
    (∀ r ∈ opcodeTable, r.selects 0#40 = false)

/-- Words written out from the opcode map of R56 and the examples of R61 and R141 decode to the commands
they stand for, and illegal ones are refused by name. -/
def Obligations.WrittenWordsDecode : Prop :=
  decode 0x1100000003#40 = .ok (.setcore 3) ∧ decode 0x50FFFFFFFF#40 = .ok (.getevent 0xFFFFFFFF#32) ∧
    decode 0x2000000000#40 = .ok .validate ∧ decode 0x3000000000#40 = .ok .getts64 ∧
    decode 0x4700000000#40 = .ok .itrvm ∧ decode 0x6900000007#40 = .ok (.wrsource 7) ∧
    decode 0x6900010000#40 = .error (.reservedArg 0x69#8 0x00010000#32) ∧
    decode 0x1000000001#40 = .error (.reservedArg 0x10#8 1#32) ∧
    decode 0x6A00000004#40 = .error (.reservedOp 0x6A#8)

/-- R160 and R58 in bits: the response word is the status code over the value, the codes are as R160
numbers them, no two statuses share one, and 7 and 15 are never produced (derived). -/
def Obligations.ResponseWordLayout : Prop :=
  (∀ r : Response, r.word.extractLsb' 64 4 = r.status.code ∧ r.word.extractLsb' 0 64 = r.value) ∧
    (∀ c d : Status, c.code = d.code → c = d) ∧ (∀ c : Status, c.code ≠ 7 ∧ c.code ≠ 15) ∧
    Status.ok.code = 0 ∧ Status.eBounds.code = 1 ∧ Status.eInvalidArg.code = 2 ∧
    Status.eInvariant.code = 3 ∧ Status.eAllocFail.code = 4 ∧ Status.nTagMismatch.code = 5 ∧
    Status.nEnd.code = 6 ∧ Status.xIllegalCmd.code = 8 ∧ Status.xNoPacket.code = 9 ∧
    Status.xNullRef.code = 10 ∧ Status.xReadonlyRef.code = 11 ∧ Status.xAlreadyAllocated.code = 12 ∧
    Status.xCountLimit.code = 13 ∧ Status.xTsReserved.code = 14

/-! ### The step -/

/-- A step runs the decoded command: a command word that is next and decodes to `i` makes the step
`exec i`, with the word taken from what the host presents; of a command and an image access outstanding
together one is accepted, by a choice left open, and the other left next. With nothing presented nothing
happens. The inbox and the choice are the model's own (log entries 5 and 6). -/
def Obligations.StepRunsDecodedCommand : Prop :=
  (∀ (s : State) (w : CmdWord) (rest : List Presented) (i : Instr),
      s.inbox = .command w :: rest → decode w = .ok i → step s = exec i { s with inbox := rest }) ∧
    (∀ (s : State) (w : CmdWord) (a : ImageAccess) (rest : List Presented) (i : Instr),
      s.inbox = .together w a :: rest → decode w = .ok i →
        step s =
          if Config.commandFirst s.draws then exec i { s with inbox := .image a :: rest, draws := s.draws + 1 }
          else .next (imageAccess a { s with inbox := .command w :: rest, draws := s.draws + 1 })) ∧
    (∀ s : State, s.inbox = [] → step s = .next s)

/-- Of a command and an image access outstanding together the block accepts one and leaves the other, in
one order or the other; which is left open (derived from 20_memory.md R43; log entry 6). -/
def Obligations.PortOrderEither : Prop :=
  ∀ (s : State) (w : CmdWord) (a : ImageAccess) (rest : List Presented),
    s.inbox = .together w a :: rest →
      step s = acceptCommand w { s with inbox := .image a :: rest, draws := s.draws + 1 } ∨
        step s = .next (imageAccess a { s with inbox := .command w :: rest, draws := s.draws + 1 })

/-- Every step keeps the invariant (derived from 10_state.md R21, R22, R24; the canonical form is the
model's own). -/
def Obligations.StepKeepsInvariant : Prop :=
  ∀ s t : State, s.Inv → step s = .next t → t.Inv

/-- The reset state meets the invariant, whatever the parameters (derived; log entries 1 to 4). -/
def Obligations.ResetMeetsInvariant : Prop := State.reset.Inv

/-- No state of a run stops the block: from a state that meets the invariant every step goes on (derived
from 70_reset_and_hazards.md R204, 60_exceptions.md R164). -/
def Obligations.StepAlwaysContinues : Prop :=
  ∀ s : State, s.Inv → ∃ t, step s = .next t

/-- What the spec calls unobservable stays so: two good states that differ only there answer alike and go
to states that again differ only there. It makes the reset values of log entries 2, 3 and 4 harmless
(derived from 10_state.md R20 to R23, R27). -/
def Obligations.UnspecifiedStateUnobservable : Prop :=
  ∀ s t : State, s.Inv → t.Inv → s.ObsEq t →
    ∃ s' t', step s = .next s' ∧ step t = .next t' ∧ s'.ObsEq t'

/-- Reset gives `PKT = 0`, `SEL.present = 0`, `IT.active = 0` and sends no report, also as an event between
transactions; after it every command but `ALLOC` answers `X_NO_PACKET`, `ALLOC` is not refused, and every
image access is refused (derived from 70_reset_and_hazards.md R190, which also calls the rest of the state
unobservable: see `UnspecifiedStateUnobservable`). That a reset between transactions also keeps what the host
still presents, the parameters, the counter of port-order choices and the histories is the model's choice,
of which R190 says nothing: log entry 13 (DESIGN CHOICE, unsafe). -/
def Obligations.ResetLeavesNoPacket : Prop :=
  (State.reset.pkt = false ∧ State.reset.sel.present = false ∧ State.reset.it.active = false ∧
      State.reset.log = []) ∧
    (∀ (s : State) (rest : List Presented), s.inbox = .reset :: rest →
      ∃ t, step s = .next t ∧ t.pkt = false ∧ t.sel.present = false ∧ t.it.active = false ∧
        t.inbox = rest ∧ t.params = s.params ∧ t.draws = s.draws ∧ t.responses = s.responses ∧
        t.log = s.log ∧ t.replies = s.replies) ∧
    (∀ t : State, t.pkt = false →
      (∀ i : Instr, i.wellFormed = true → (∀ c, i ≠ .alloc c) →
          exec i t = .next (answering t .xNoPacket 0)) ∧
        (∀ c : Word, ∃ (u : State) (r : Response), exec (.alloc c) t = .next u ∧
          u.responses = t.responses ++ [r] ∧ (r.status = .ok ∨ r.status = .eAllocFail)) ∧
        ∀ a : ImageAccess, imageAccess a t = { t with replies := t.replies ++ [.noPacket] })

/-! ### Conditions -/

/-- R165: each command has the gate the table names; the first check of it that fails, in the table's
order and after the illegal-word test, ends the command with that status and no other change. -/
def Obligations.GatesStopInOrder : Prop :=
  ∀ (i : Instr) (s : State),
    (i.wellFormed = false → exec i s = .next (answering s .xIllegalCmd 0)) ∧
      (i.wellFormed = true → ∀ c, gateStatus (gateOf i) s = some c → exec i s = .next (answering s c 0)) ∧
      (s.pkt = true → s.hdr.type ≠ s.params.spikeEventTag →
        exec .view s = .next (answering s .nTagMismatch 0))

/-- R163: a command sends exactly one response, whose value is 0 unless its status is `OK` (R160), and
exactly one report `(CRITICAL, status, info)` when the status is one of the source's four, none
otherwise. -/
def Obligations.OneResponseAndItsReport : Prop :=
  ∀ (i : Instr) (s t : State), exec i s = .next t →
    ∃ r : Response, t.responses = s.responses ++ [r] ∧ (r.status ≠ .ok → r.value = 0) ∧
      t.log = s.log ++
        (if r.status = .eBounds ∨ r.status = .eInvalidArg ∨ r.status = .eInvariant ∨ r.status = .eAllocFail
         then [{ severity := .critical, code := r.status, info := reportInfo i s t }] else [])

/-- R164: a command that ends with a status other than `OK` has changed nothing but its outputs, but for
an out-of-bounds `GETEVENT`, which clears `SEL.present`, and an `ITNEXT` that ends its traversal, which
clears `IT.active` and keeps the position it reached. -/
def Obligations.NonOkChangesNothing : Prop :=
  ∀ (i : Instr) (s t : State) (r : Response), exec i s = .next t →
    t.responses = s.responses ++ [r] → r.status ≠ .ok →
      { t with responses := s.responses, log := s.log } =
        match i with
        | .getevent _ =>
          if r.status = .eBounds then { s with sel := { s.sel with present := false } } else s
        | .itnext =>
          if r.status = .nEnd ∨ r.status = .eBounds then
            { s with it := { s.it with active := false, pos := t.it.pos } }
          else s
        | _ => s

/-- The read paths change nothing but their outputs, whatever their outcome (derived from 20_memory.md
R41). -/
def Obligations.ReadPathsChangeNothing : Prop :=
  ∀ (i : Instr) (s t : State),
    i ∈ ([.getcore, .getchip, .getneuron, .getts, .isvalid, .getts64, .rdtype, .rdsource, .rdcap, .rdevcnt,
      .rdvalcnt, .rdovf, .view] : List Instr) →
    exec i s = .next t → { t with responses := s.responses } = s

/-- Each header register changes only at the commands that the rules name as its writers, and the
capacity only at a creation (derived from 10_state.md R14 to R19). -/
def Obligations.HeaderRegisterWriters : Prop :=
  ∀ (i : Instr) (s t : State), exec i s = .next t →
    (t.hdr.type ≠ s.hdr.type → (∃ c, i = .alloc c) ∨ ∃ v, i = .wrtype v) ∧
      (t.hdr.source ≠ s.hdr.source → (∃ c, i = .alloc c) ∨ ∃ v, i = .wrsource v) ∧
      (t.hdr.cap ≠ s.hdr.cap → s.pkt = false ∧ ∃ c, i = .alloc c) ∧
      (t.hdr.evcnt ≠ s.hdr.evcnt → (∃ c, i = .alloc c) ∨ i = .validate ∨ ∃ v, i = .wrevcnt v) ∧
      (t.hdr.valcnt ≠ s.hdr.valcnt →
        (∃ c, i = .alloc c) ∨ i = .validate ∨ i = .invalidate ∨ ∃ v, i = .wrvalcnt v) ∧
      (t.hdr.ovf ≠ s.hdr.ovf → (∃ c, i = .alloc c) ∨ ∃ v, i = .wrovf v)

/-- `PKT`, `SEL`, `IT` and the records change only at the commands that the rules name as their writers,
and no command touches the parameters, what the host presents, or the image port's answers (derived
from 10_state.md R20 to R23, 20_memory.md R41). -/
def Obligations.InterfaceAndRecordWriters : Prop :=
  ∀ (i : Instr) (s t : State), exec i s = .next t →
    (t.pkt ≠ s.pkt → (∃ c, i = .alloc c) ∨ i = .free) ∧
      (t.sel ≠ s.sel → (∃ n, i = .getevent n) ∨ i = .itnext ∨ (∃ c, i = .alloc c) ∨ i = .free) ∧
      (t.it ≠ s.it →
        (∃ m r v, i = startInstr m r v) ∨ i = .itnext ∨ (∃ c, i = .alloc c) ∨ i = .free) ∧
      (t.mem ≠ s.mem →
        (∃ v, i = .setcore v ∨ i = .setchip v ∨ i = .setneuron v ∨ i = .setts v ∨ i = .alloc v) ∨
          i = .validate ∨ i = .invalidate) ∧
      t.params = s.params ∧ t.inbox = s.inbox ∧ t.draws = s.draws ∧ t.replies = s.replies

/-- The capacity never changes while a packet lives: invariant I1, over one step of any kind (derived from
10_state.md R16, R24). -/
def Obligations.CapacityFixedWhilePacketLives : Prop :=
  ∀ s t : State, step s = .next t → s.pkt = true → t.pkt = true → t.hdr.cap = s.hdr.cap

/-- The histories of responses, reports and image answers are append-only over every step, and the
parameters never change (derived from 10_state.md R26; log entries 1 and 7). -/
def Obligations.HistoriesOnlyGrow : Prop :=
  ∀ s t : State, step s = .next t →
    s.responses <+: t.responses ∧ s.log <+: t.log ∧ s.replies <+: t.replies ∧ t.params = s.params

/-! ### Record codec -/

/-- R34: the bytes of a record are its two words, little-endian; a word read is the four bytes put
together; and the places R34 lists of the fields in the bytes. -/
def Obligations.RecordBytesLittleEndian : Prop :=
  ∀ (s : State) (i : Nat),
    (∀ j, j < 4 → s.mem.read (8 * i + j) = (s.dataOf i).extractLsb' (8 * j) 8) ∧
      (∀ j, 4 ≤ j → j < 8 → s.mem.read (8 * i + j) = (s.tsOf i).extractLsb' (8 * (j - 4)) 8) ∧
      (∀ a, s.mem.word a =
        ((s.mem.read a).setWidth 32 ||| ((s.mem.read (a + 1)).setWidth 32 <<< 8) |||
          ((s.mem.read (a + 2)).setWidth 32 <<< 16) ||| ((s.mem.read (a + 3)).setWidth 32 <<< 24))) ∧
      (s.dataOf i).getLsbD 0 = (s.mem.read (8 * i)).getLsbD 0 ∧
      (s.dataOf i).extractLsb' 1 5 = (s.mem.read (8 * i)).extractLsb' 1 5 ∧
      (s.dataOf i).extractLsb' 6 6 =
        ((s.mem.read (8 * i + 1)).extractLsb' 0 4 ++ (s.mem.read (8 * i)).extractLsb' 6 2 : BitVec 6) ∧
      (s.dataOf i).extractLsb' 12 20 =
        (s.mem.read (8 * i + 3) ++ s.mem.read (8 * i + 2) ++ (s.mem.read (8 * i + 1)).extractLsb' 4 4 :
          BitVec 20) ∧
      (s.tsOf i).getLsbD 31 = (s.mem.read (8 * i + 7)).getLsbD 7

/-- R72, R74, R76, R80: `GETCORE`, `GETCHIP`, `GETNEURON`, `ISVALID` answer the field of the selected
record's field word, zero-extended, and change nothing else; behind `gate(R)`. -/
def Obligations.FieldReads : Prop :=
  (decode 0x1000000000#40 = .ok .getcore ∧ decode 0x1200000000#40 = .ok .getchip ∧
      decode 0x1400000000#40 = .ok .getneuron ∧ decode 0x1800000000#40 = .ok .isvalid) ∧
    (∀ s : State, gateStatus .R s = none → s.curInPacket →
      exec .getcore s = .next (answering s .ok (((s.dataOf s.cur).extractLsb' 1 5).setWidth 64)) ∧
        exec .getchip s = .next (answering s .ok (((s.dataOf s.cur).extractLsb' 6 6).setWidth 64)) ∧
        exec .getneuron s = .next (answering s .ok (((s.dataOf s.cur).extractLsb' 12 20).setWidth 64)) ∧
        exec .isvalid s = .next (answering s .ok (((s.dataOf s.cur).extractLsb' 0 1).setWidth 64))) ∧
    (∀ (s : State) (c : Status), gateStatus .R s = some c →
      ∀ i ∈ ([.getcore, .getchip, .getneuron, .isvalid] : List Instr),
        exec i s = .next (answering s c 0))

/-- R73, R75, R77: `SETCORE v`, `SETCHIP v`, `SETNEURON v` store the operand's low 5, 6 or 20 bits in their
field of the selected record's field word and change nothing else; behind `gate(W)`. -/
def Obligations.FieldWrites : Prop :=
  (∀ v : Word, decode (0x11#8 ++ v : CmdWord) = .ok (.setcore v) ∧
      decode (0x13#8 ++ v : CmdWord) = .ok (.setchip v) ∧
      decode (0x15#8 ++ v : CmdWord) = .ok (.setneuron v)) ∧
    (∀ (s : State) (v : Word), gateStatus .W s = none → s.curInPacket → s.mem.wf = true →
      storesWord (.setcore v) s (dataAddr s.cur)
          ((s.dataOf s.cur &&& 0xFFFFFFC1#32) ||| ((v &&& 0x1F#32) <<< 1)) s.hdr ∧
        storesWord (.setchip v) s (dataAddr s.cur)
          ((s.dataOf s.cur &&& 0xFFFFF03F#32) ||| ((v &&& 0x3F#32) <<< 6)) s.hdr ∧
        storesWord (.setneuron v) s (dataAddr s.cur)
          ((s.dataOf s.cur &&& 0x00000FFF#32) ||| ((v &&& 0xFFFFF#32) <<< 12)) s.hdr) ∧
    (∀ (s : State) (v : Word) (c : Status), gateStatus .W s = some c →
      ∀ i ∈ ([.setcore v, .setchip v, .setneuron v] : List Instr), exec i s = .next (answering s c 0))

/-- R78: `GETTS` answers the selected record's timestamp word sign-extended, that is as a signed number,
and changes nothing else; behind `gate(R)`. -/
def Obligations.TimestampRead : Prop :=
  decode 0x1600000000#40 = .ok .getts ∧
    (∀ s : State, gateStatus .R s = none → s.curInPacket →
      exec .getts s = .next (answering s .ok ((s.tsOf s.cur).signExtend 64)) ∧
        ((s.tsOf s.cur).signExtend 64).toInt = (s.tsOf s.cur).toInt) ∧
    (∀ (s : State) (c : Status), gateStatus .R s = some c →
      exec .getts s = .next (answering s c 0))

/-- R79: `SETTS t` stores a non-negative operand as the selected record's timestamp word and nothing else;
a negative one is reported as `E_INVALID_ARG` and changes nothing; behind `gate(W)`. -/
def Obligations.TimestampWrite : Prop :=
  (∀ v : Word, decode (0x17#8 ++ v : CmdWord) = .ok (.setts v)) ∧
    (∀ (s : State) (v : Word), gateStatus .W s = none → v.toInt < 0 →
      exec (.setts v) s = .next (reporting s .eInvalidArg v)) ∧
    (∀ (s : State) (v : Word), gateStatus .W s = none → s.curInPacket → s.mem.wf = true →
      0 ≤ v.toInt → storesWord (.setts v) s (tsAddr s.cur) v s.hdr) ∧
    (∀ (s : State) (v : Word) (c : Status), gateStatus .W s = some c →
      exec (.setts v) s = .next (answering s c 0))

/-- The fields are independent: setting one changes no other and not the validity mark (derived from the
law of 40_record_codec.md R81 on field words). -/
def Obligations.FieldsIndependent : Prop :=
  ∀ data v : Word,
    getChip (setCore data v) = getChip data ∧ getNeuron (setCore data v) = getNeuron data ∧
      getCore (setChip data v) = getCore data ∧ getNeuron (setChip data v) = getNeuron data ∧
      getCore (setNeuron data v) = getCore data ∧ getChip (setNeuron data v) = getChip data ∧
      isValid (setCore data v) = isValid data ∧ isValid (setChip data v) = isValid data ∧
      isValid (setNeuron data v) = isValid data

/-- R82: what is set is read back, truncated by the field's mask; a value in range is read back exactly;
setting twice is setting once and the later setter wins; a timestamp that `SETTS` accepts is the one
`GETTS` answers. -/
def Obligations.FieldRoundTrip : Prop :=
  (∀ data v : Word,
    getCore (setCore data v) = v &&& 0x1F#32 ∧ getChip (setChip data v) = v &&& 0x3F#32 ∧
      getNeuron (setNeuron data v) = v &&& 0xFFFFF#32 ∧
      (v.toNat ≤ 31 → getCore (setCore data v) = v) ∧ (v.toNat ≤ 63 → getChip (setChip data v) = v) ∧
      (v.toNat ≤ 2 ^ 20 - 1 → getNeuron (setNeuron data v) = v)) ∧
    (∀ data u v : Word,
      setCore (setCore data u) v = setCore data v ∧ setChip (setChip data u) v = setChip data v ∧
        setNeuron (setNeuron data u) v = setNeuron data v) ∧
    (∀ (s : State) (v : Word), gateStatus .W s = none → s.curInPacket → s.mem.wf = true →
      0 ≤ v.toInt →
        ∃ t, exec (.setts v) s = .next t ∧ exec .getts t = .next (answering t .ok (v.signExtend 64)) ∧
          (v.signExtend 64).toInt = v.toInt)

/-! ### 64-bit timestamps -/

/-- R101: `GETTS64` answers `(zext_64(HDR.OVF) << 31) | zext_64(ts)`, which is `HDR.OVF * 2^31 + ts` and
never negative, and changes nothing else; a timestamp with its reserved bit set is refused with
`X_TS_RESERVED`; behind `gate(R)`. -/
def Obligations.Timestamp64Read : Prop :=
  decode 0x3000000000#40 = .ok .getts64 ∧
    (∀ s : State, gateStatus .R s = none → s.curInPacket → (s.tsOf s.cur).getLsbD 31 = true →
      exec .getts64 s = .next (answering s .xTsReserved 0)) ∧
    (∀ s : State, gateStatus .R s = none → s.curInPacket → (s.tsOf s.cur).getLsbD 31 = false →
      ∃ v : Value, exec .getts64 s = .next (answering s .ok v) ∧
        v = (s.hdr.ovf.setWidth 64 <<< 31 ||| (s.tsOf s.cur).setWidth 64) ∧
        v.toInt = (s.hdr.ovf.toNat : Int) * 2 ^ 31 + (s.tsOf s.cur).toNat) ∧
    (∀ (s : State) (c : Status), gateStatus .R s = some c →
      exec .getts64 s = .next (answering s c 0))

/-- The reconstruction is lossless and monotonic (derived from 42_timestamp64.md R100, R103). -/
def Obligations.Timestamp64LosslessMonotonic : Prop :=
  (∀ ovf ts : Word, ts.getLsbD 31 = false →
    (ts64 ovf ts).extractLsb' 0 31 = ts.extractLsb' 0 31 ∧ (ts64 ovf ts).extractLsb' 31 32 = ovf) ∧
    (∀ ovf₁ ts₁ ovf₂ ts₂ : Word, ts₁.getLsbD 31 = false → ts₂.getLsbD 31 = false →
      (ovf₁.toNat < ovf₂.toNat ∨ (ovf₁ = ovf₂ ∧ ts₁.toNat ≤ ts₂.toNat)) →
        (ts64 ovf₁ ts₁).toInt ≤ (ts64 ovf₂ ts₂).toInt)

/-! ### Validity bookkeeping -/

/-- R91: `VALIDATE` of an Invalid record with room sets its mark and adds 1 to both counters, all three and
nothing else; of a Valid record it is reported as `E_INVARIANT`; with `HDR.EVCNT` at the capacity it is
refused with `X_COUNT_LIMIT`; behind `gate(W)`. -/
def Obligations.ValidateEffect : Prop :=
  decode 0x2000000000#40 = .ok .validate ∧
    (∀ s : State, gateStatus .W s = none → s.curInPacket → (s.dataOf s.cur).getLsbD 0 = true →
      exec .validate s = .next (reporting s .eInvariant (s.sel.idx.setWidth 32))) ∧
    (∀ s : State, gateStatus .W s = none → s.curInPacket → (s.dataOf s.cur).getLsbD 0 = false →
      s.hdr.cap.toNat ≤ s.hdr.evcnt.toNat → exec .validate s = .next (answering s .xCountLimit 0)) ∧
    (∀ s : State, gateStatus .W s = none → s.curInPacket → s.mem.wf = true →
      (s.dataOf s.cur).getLsbD 0 = false → s.hdr.evcnt.toNat < s.hdr.cap.toNat →
        storesWord .validate s (dataAddr s.cur) (s.dataOf s.cur ||| 0x00000001#32)
          { s.hdr with evcnt := s.hdr.evcnt + 1, valcnt := s.hdr.valcnt + 1 }) ∧
    (∀ (s : State) (c : Status), gateStatus .W s = some c →
      exec .validate s = .next (answering s c 0))

/-- R92: `INVALIDATE` of a Valid record clears its mark and takes 1 from the valid count, both and nothing
else; of an Invalid record it is reported as `E_INVARIANT`; with the valid count at 0 it is refused with
`X_COUNT_LIMIT`; behind `gate(W)`. -/
def Obligations.InvalidateEffect : Prop :=
  decode 0x2100000000#40 = .ok .invalidate ∧
    (∀ s : State, gateStatus .W s = none → s.curInPacket → (s.dataOf s.cur).getLsbD 0 = false →
      exec .invalidate s = .next (reporting s .eInvariant (s.sel.idx.setWidth 32))) ∧
    (∀ s : State, gateStatus .W s = none → s.curInPacket → (s.dataOf s.cur).getLsbD 0 = true →
      s.hdr.valcnt = 0 → exec .invalidate s = .next (answering s .xCountLimit 0)) ∧
    (∀ s : State, gateStatus .W s = none → s.curInPacket → s.mem.wf = true →
      (s.dataOf s.cur).getLsbD 0 = true → s.hdr.valcnt ≠ 0 →
        storesWord .invalidate s (dataAddr s.cur) (s.dataOf s.cur &&& 0xFFFFFFFE#32)
          { s.hdr with valcnt := s.hdr.valcnt - 1 }) ∧
    (∀ (s : State) (c : Status), gateStatus .W s = some c →
      exec .invalidate s = .next (answering s c 0))

/-- R93: from the creation of a packet of capacity `n`, validating distinct slots in any order leaves both
counters at their number and every response `OK`; then invalidating distinct ones of those takes their
number from the valid count only; a second validate or invalidate is reported and leaves the counters. -/
def Obligations.AccountingOverDistinctSlots : Prop :=
  ∀ (s : State) (n : Word) (ks js : List Nat),
    s.params.wf = true → s.mem.wf = true → s.pkt = false → allocFits s.params n →
    ks.Nodup → (∀ k ∈ ks, k < n.toNat) → js.Nodup → (∀ j ∈ js, j ∈ ks) →
    ∃ t u : State,
      execAll (.alloc n :: validateSlots ks) s = .next t ∧ execAll (invalidateSlots js) t = .next u ∧
      (∃ rs, t.responses = s.responses ++ rs ∧ ∀ r ∈ rs, r.status = .ok) ∧
      (∃ rs, u.responses = t.responses ++ rs ∧ ∀ r ∈ rs, r.status = .ok) ∧
      t.log = s.log ∧ u.log = s.log ∧
      t.hdr.evcnt.toNat = ks.length ∧ t.hdr.valcnt.toNat = ks.length ∧
      u.hdr.evcnt.toNat = ks.length ∧ u.hdr.valcnt.toNat = ks.length - js.length ∧
      (∀ k ∈ ks, ∃ v, execAll [.getevent (BitVec.ofNat 32 k), .validate] t = .next v ∧
        v.hdr = t.hdr ∧
        v.log = t.log ++ [{ severity := .critical, code := .eInvariant, info := BitVec.ofNat 32 k }]) ∧
      (∀ j ∈ js, ∃ v, execAll [.getevent (BitVec.ofNat 32 j), .invalidate] u = .next v ∧
        v.hdr = u.hdr ∧
        v.log = u.log ++ [{ severity := .critical, code := .eInvariant, info := BitVec.ofNat 32 j }])

/-- The weaker form of invariant I3 the block keeps by itself: no command but a write of the valid count
takes `HDR.VALCNT` away from the number of Valid slots of the packet (derived from 10_state.md R24). -/
def Obligations.ValidCountAgreesWithMarks : Prop :=
  ∀ (i : Instr) (s t : State), s.Inv → s.countAgrees → (∀ v, i ≠ .wrvalcnt v) →
    exec i s = .next t → t.countAgrees

/-- While a packet exists no command changes a validity mark but `VALIDATE`, which sets the selected one,
and `INVALIDATE`, which clears it (derived from 10_state.md R25). -/
def Obligations.MarksChangeOnlyByBookkeeping : Prop :=
  ∀ (i : Instr) (s t : State) (j : Nat), s.mem.wf = true → s.pkt = true → exec i s = .next t →
    isValid (t.dataOf j) ≠ isValid (s.dataOf j) →
      j = s.cur ∧
        ((i = .validate ∧ isValid (t.dataOf j) = true) ∨ (i = .invalidate ∧ isValid (t.dataOf j) = false))

/-! ### Traversal -/

/-- R111 to R119: each start command begins the traversal its opcode names, forward at 0 and reverse at
`HDR.EVCNT - 1`, changes nothing else, and may be issued at any time; behind `gate(P)`. -/
def Obligations.TraversalStarts : Prop :=
  (decode 0x4000000000#40 = .ok .itfa ∧ decode 0x4100000000#40 = .ok .itfv ∧
      decode 0x4200000000#40 = .ok .itra ∧ decode 0x4300000000#40 = .ok .itrv ∧
      decode 0x4400000000#40 = .ok .itfam ∧ decode 0x4500000000#40 = .ok .itfvm ∧
      decode 0x4600000000#40 = .ok .itram ∧ decode 0x4700000000#40 = .ok .itrvm) ∧
    (∀ (s : State) (i : Instr) (m r v : Bool), gateStatus .P s = none →
      (i, m, r, v) ∈ ([(.itfa, false, false, false), (.itfv, false, false, true), (.itra, false, true, false),
        (.itrv, false, true, true), (.itfam, true, false, false), (.itfvm, true, false, true),
        (.itram, true, true, false), (.itrvm, true, true, true)] : List (Instr × Bool × Bool × Bool)) →
      exec i s = .next (answering
        { s with
          it := { active := true, rev := r, vonly := v, mutable := m,
                  pos := if r then s.hdr.evcnt - 1 else 0 } } .ok 0)) ∧
    (∀ (s : State) (c : Status), gateStatus .P s = some c →
      ∀ i ∈ ([.itfa, .itfv, .itra, .itrv, .itfam, .itfvm, .itram, .itrvm] : List Instr),
        exec i s = .next (answering s c 0))

/-- R120, round by round: the end tests, the bounds check, the skip of an Invalid slot, which goes on as
`ITNEXT` from the next position, and the pair handed out; behind `gate(P)`. -/
def Obligations.NextPairRounds : Prop :=
  decode 0x4800000000#40 = .ok .itnext ∧
    (∀ (s : State) (c : Status), gateStatus .P s = some c →
      exec .itnext s = .next (answering s c 0)) ∧
    (∀ s : State, gateStatus .P s = none →
      (s.it.active = false → exec .itnext s = .next (answering s .nEnd 0)) ∧
        (s.it.active = true →
          (if s.it.rev then s.it.pos.toInt < 0 else (s.hdr.evcnt.toNat : Int) ≤ s.it.pos.toInt) →
            exec .itnext s = .next (answering { s with it := { s.it with active := false } } .nEnd 0))) ∧
    (∀ (s : State) (p : Nat) (next : Word), gateStatus .P s = none → s.it.active = true →
      s.it.pos.toInt = p → (s.it.rev = false → p < s.hdr.evcnt.toNat) →
      s.hdr.evcnt.toNat ≤ 2 ^ 31 - 1 → next = (if s.it.rev then s.it.pos - 1 else s.it.pos + 1) →
      (s.hdr.cap.toNat ≤ p →
          exec .itnext s =
            .next (reporting { s with it := { s.it with active := false } } .eBounds s.it.pos)) ∧
        (p < s.hdr.cap.toNat → s.it.vonly = true → (s.dataOf p).getLsbD 0 = false →
          exec .itnext s = exec .itnext { s with it := { s.it with pos := next } }) ∧
        (p < s.hdr.cap.toNat → (s.it.vonly = true → (s.dataOf p).getLsbD 0 = true) →
          exec .itnext s = .next (answering
            { s with
              it := { s.it with pos := next }
              sel := { present := true, w := s.it.mutable, idx := BitVec.ofNat 31 p } }
            .ok (BitVec.ofNat 64 p))))

/-- `ITNEXT` hands out the nearest slot ahead that the traversal does not skip, or ends the traversal when
there is none, with the position it reached (derived from 43_traversal.md R110, R120). -/
def Obligations.NextPairIsNearest : Prop :=
  ∀ s : State, s.Inv → gateStatus .P s = none → s.it.active = true →
    (s.it.rev = false →
      (∀ p : Nat, s.it.pos.toInt ≤ p → p < s.hdr.evcnt.toNat → s.visits s.it.vonly p = true →
        (∀ q : Nat, s.it.pos.toInt ≤ q → q < p → s.visits s.it.vonly q = false) →
          exec .itnext s = .next (answering
            { s with
              it := { s.it with pos := BitVec.ofNat 32 (p + 1) }
              sel := { present := true, w := s.it.mutable, idx := BitVec.ofNat 31 p } }
            .ok (BitVec.ofNat 64 p))) ∧
        ((∀ q : Nat, s.it.pos.toInt ≤ q → q < s.hdr.evcnt.toNat → s.visits s.it.vonly q = false) →
          exec .itnext s = .next (answering
            { s with
              it := { s.it with active := false, pos := BitVec.ofInt 32 (max s.it.pos.toInt s.hdr.evcnt.toNat) } }
            .nEnd 0))) ∧
      (s.it.rev = true →
        (∀ p : Nat, (p : Int) ≤ s.it.pos.toInt → s.visits s.it.vonly p = true →
          (∀ q : Nat, p < q → (q : Int) ≤ s.it.pos.toInt → s.visits s.it.vonly q = false) →
            exec .itnext s = .next (answering
              { s with
                it := { s.it with pos := BitVec.ofInt 32 ((p : Int) - 1) }
                sel := { present := true, w := s.it.mutable, idx := BitVec.ofNat 31 p } }
              .ok (BitVec.ofNat 64 p))) ∧
          ((∀ q : Nat, (q : Int) ≤ s.it.pos.toInt → s.visits s.it.vonly q = false) →
            exec .itnext s = .next (answering
              { s with it := { s.it with active := false, pos := BitVec.ofInt 32 (-1) } } .nEnd 0)))

/-- The sequence as a function: a start and then `ITNEXT` to the end answer exactly the indices of the
strategy in its order, then `N_END`, and change nothing but `IT` and `SEL` (derived from 43_traversal.md
R110, R121). -/
def Obligations.TraversalProducesSequence : Prop :=
  ∀ (s : State) (m r v : Bool), s.Inv → gateStatus .P s = none →
    ∃ t, execAll (startInstr m r v :: List.replicate ((s.traversalIndices r v).length + 1) .itnext) s =
        .next t ∧
      t.responses = s.responses ++ [{ status := .ok, value := 0 }] ++
        (s.traversalIndices r v).map (fun i => { status := .ok, value := BitVec.ofNat 64 i }) ++
        [{ status := .nEnd, value := 0 }] ∧
      t.it.active = false ∧
      t.sel = (match (s.traversalIndices r v).getLast? with
        | none => s.sel
        | some i => { present := true, w := m, idx := BitVec.ofNat 31 i }) ∧
      { t with responses := s.responses, it := s.it, sel := s.sel } = s

/-! ### Access, creation, release, view -/

/-- R130: `GETEVENT n` selects slot `n` through a mutable reference and answers `n` when `0 <= n < HDR.CAP`;
otherwise it clears `SEL.present` and reports `E_BOUNDS`; nothing else changes; behind `gate(P)`. -/
def Obligations.GeteventSelects : Prop :=
  (∀ n : Word, decode (0x50#8 ++ n : CmdWord) = .ok (.getevent n)) ∧
    (∀ (s : State) (n : Word), gateStatus .P s = none → 0 ≤ n.toInt → n.toInt < s.hdr.cap.toNat →
      exec (.getevent n) s = .next (answering
        { s with sel := { present := true, w := true, idx := n.setWidth 31 } } .ok (n.setWidth 64))) ∧
    (∀ (s : State) (n : Word), gateStatus .P s = none → (n.toInt < 0 ∨ (s.hdr.cap.toNat : Int) ≤ n.toInt) →
      exec (.getevent n) s =
        .next (reporting { s with sel := { s.sel with present := false } } .eBounds n)) ∧
    (∀ (s : State) (n : Word) (c : Status), gateStatus .P s = some c →
      exec (.getevent n) s = .next (answering s c 0))

/-- R131: `ALLOC cap` creates the packet, with every byte of its records zero and every other byte kept, and
answers the byte size of the wire image; with a packet there it is refused; with a capacity that is
negative, above `MAX_CAPACITY` or too large for the size type it is reported as `E_ALLOC_FAIL` and
changes nothing. -/
def Obligations.AllocCreates : Prop :=
  (∀ n : Word, decode (0x51#8 ++ n : CmdWord) = .ok (.alloc n)) ∧
    (∀ (s : State) (n : Word), s.pkt = true →
      exec (.alloc n) s = .next (answering s .xAlreadyAllocated 0)) ∧
    (∀ (s : State) (n : Word), s.pkt = false → ¬ allocFits s.params n →
      exec (.alloc n) s = .next (reporting s .eAllocFail n)) ∧
    (∀ (s : State) (n : Word), s.params.wf = true → s.pkt = false → allocFits s.params n →
      ∃ (t : State) (v : Value), exec (.alloc n) s = .next t ∧
        v.toNat = s.params.headerSize + 8 * n.toNat ∧
        (∀ a, t.mem.read a = if a < 8 * n.toNat then 0 else s.mem.read a) ∧
        { t with mem := s.mem } =
          { s with
            pkt := true
            hdr := { type := s.params.spikeEventTag, source := 0, cap := n, evcnt := 0, valcnt := 0, ovf := 0 }
            sel := { s.sel with present := false }
            it := { s.it with active := false }
            responses := s.responses ++ [{ status := .ok, value := v }] })

/-- R132: `FREE` clears `PKT`, `SEL.present` and `IT.active`, keeps everything else, and does not look at the
tag; with no packet it is refused. -/
def Obligations.FreeReleases : Prop :=
  decode 0x5200000000#40 = .ok .free ∧
    (∀ s : State, s.pkt = true →
      exec .free s = .next (answering
        { s with
          pkt := false
          sel := { s.sel with present := false }
          it := { s.it with active := false } } .ok 0)) ∧
    (∀ s : State, s.pkt = false → exec .free s = .next (answering s .xNoPacket 0))

/-- R133: `VIEW` answers `OK` when the tag is the spike-event constant and `N_TAG_MISMATCH` when it is not,
and changes nothing. -/
def Obligations.ViewChecksTag : Prop :=
  decode 0x5300000000#40 = .ok .view ∧
    (∀ s : State, s.pkt = false → exec .view s = .next (answering s .xNoPacket 0)) ∧
    (∀ s : State, s.pkt = true → s.hdr.type ≠ s.params.spikeEventTag →
      exec .view s = .next (answering s .nTagMismatch 0)) ∧
    (∀ s : State, s.pkt = true → s.hdr.type = s.params.spikeEventTag →
      exec .view s = .next (answering s .ok 0))

/-! ### Header -/

/-- R134 to R139: each header read answers its register zero-extended, whatever the tag, and changes
nothing else; behind `gate(H)`. -/
def Obligations.HeaderReads : Prop :=
  (decode 0x6000000000#40 = .ok .rdtype ∧ decode 0x6100000000#40 = .ok .rdsource ∧
      decode 0x6200000000#40 = .ok .rdcap ∧ decode 0x6300000000#40 = .ok .rdevcnt ∧
      decode 0x6400000000#40 = .ok .rdvalcnt ∧ decode 0x6500000000#40 = .ok .rdovf) ∧
    (∀ s : State, s.pkt = true →
      exec .rdtype s = .next (answering s .ok (s.hdr.type.setWidth 64)) ∧
        exec .rdsource s = .next (answering s .ok (s.hdr.source.setWidth 64)) ∧
        exec .rdcap s = .next (answering s .ok (s.hdr.cap.setWidth 64)) ∧
        exec .rdevcnt s = .next (answering s .ok (s.hdr.evcnt.setWidth 64)) ∧
        exec .rdvalcnt s = .next (answering s .ok (s.hdr.valcnt.setWidth 64)) ∧
        exec .rdovf s = .next (answering s .ok (s.hdr.ovf.setWidth 64))) ∧
    (∀ s : State, s.pkt = false →
      ∀ i ∈ ([.rdtype, .rdsource, .rdcap, .rdevcnt, .rdvalcnt, .rdovf] : List Instr),
        exec i s = .next (answering s .xNoPacket 0))

/-- R140, R141: `WRTYPE v` and `WRSOURCE v` write `arg[15:0]` to their register and nothing else; an operand
whose high half is not zero is an illegal word; behind `gate(H)`. -/
def Obligations.TagAndSourceWrites : Prop :=
  (∀ v : Word, v.extractLsb' 16 16 = 0 → decode (0x68#8 ++ v : CmdWord) = .ok (.wrtype v) ∧
      decode (0x69#8 ++ v : CmdWord) = .ok (.wrsource v)) ∧
    (∀ v : Word, v.extractLsb' 16 16 ≠ 0 →
      decode (0x68#8 ++ v : CmdWord) = .error (.reservedArg 0x68#8 v) ∧
        decode (0x69#8 ++ v : CmdWord) = .error (.reservedArg 0x69#8 v) ∧
        ∀ s : State, exec (.wrtype v) s = .next (answering s .xIllegalCmd 0) ∧
          exec (.wrsource v) s = .next (answering s .xIllegalCmd 0)) ∧
    (∀ (s : State) (v : Word), v.extractLsb' 16 16 = 0 → s.pkt = true →
      exec (.wrtype v) s =
          .next (answering { s with hdr := { s.hdr with type := v.extractLsb' 0 16 } } .ok 0) ∧
        exec (.wrsource v) s =
          .next (answering { s with hdr := { s.hdr with source := v.extractLsb' 0 16 } } .ok 0)) ∧
    (∀ (s : State) (v : Word), v.extractLsb' 16 16 = 0 → s.pkt = false →
      exec (.wrtype v) s = .next (answering s .xNoPacket 0) ∧
        exec (.wrsource v) s = .next (answering s .xNoPacket 0))

/-- R142, R143: `WREVCNT v` and `WRVALCNT v` write their counter and nothing else, unless the value would
break `0 <= HDR.VALCNT <= HDR.EVCNT <= HDR.CAP`: then they are refused with `X_COUNT_LIMIT`; behind
`gate(H)`. -/
def Obligations.CounterWrites : Prop :=
  (∀ v : Word, decode (0x6B#8 ++ v : CmdWord) = .ok (.wrevcnt v) ∧
      decode (0x6C#8 ++ v : CmdWord) = .ok (.wrvalcnt v)) ∧
    (∀ (s : State) (v : Word), s.pkt = true →
      ((v.toNat < s.hdr.valcnt.toNat ∨ s.hdr.cap.toNat < v.toNat) →
          exec (.wrevcnt v) s = .next (answering s .xCountLimit 0)) ∧
        (s.hdr.valcnt.toNat ≤ v.toNat → v.toNat ≤ s.hdr.cap.toNat →
          exec (.wrevcnt v) s = .next (answering { s with hdr := { s.hdr with evcnt := v } } .ok 0)) ∧
        (s.hdr.evcnt.toNat < v.toNat →
          exec (.wrvalcnt v) s = .next (answering s .xCountLimit 0)) ∧
        (v.toNat ≤ s.hdr.evcnt.toNat →
          exec (.wrvalcnt v) s = .next (answering { s with hdr := { s.hdr with valcnt := v } } .ok 0))) ∧
    (∀ (s : State) (v : Word), s.pkt = false →
      exec (.wrevcnt v) s = .next (answering s .xNoPacket 0) ∧
        exec (.wrvalcnt v) s = .next (answering s .xNoPacket 0))

/-- R144: `WROVF v` writes the overflow counter, any value, and nothing else; behind `gate(H)`. -/
def Obligations.OverflowWrite : Prop :=
  (∀ v : Word, decode (0x6D#8 ++ v : CmdWord) = .ok (.wrovf v)) ∧
    (∀ (s : State) (v : Word), s.pkt = true →
      exec (.wrovf v) s = .next (answering { s with hdr := { s.hdr with ovf := v } } .ok 0)) ∧
    (∀ (s : State) (v : Word), s.pkt = false →
      exec (.wrovf v) s = .next (answering s .xNoPacket 0))

/-! ### The image port -/

/-- R36: an image read answers the byte at its offset, or is refused with no packet or beyond the record
region; no state of the block changes. -/
def Obligations.ImageReadReplies : Prop :=
  ∀ (s : State) (r : Nat) (rest : List Presented), s.inbox = .image (.read r) :: rest →
    (s.pkt = false →
        step s = .next { s with inbox := rest, replies := s.replies ++ [.noPacket] }) ∧
      (s.pkt = true → 8 * s.hdr.cap.toNat ≤ r →
        step s = .next { s with inbox := rest, replies := s.replies ++ [.imgRange] }) ∧
      (s.pkt = true → r < 8 * s.hdr.cap.toNat →
        step s = .next { s with inbox := rest, replies := s.replies ++ [.data (s.mem.read r)] })

/-- R37: an image write changes the byte at its offset and nothing else, not the counters, `SEL` or `IT`,
and needs no mutable reference; it is refused with no packet or beyond the record region. -/
def Obligations.ImageWriteStoresOneByte : Prop :=
  ∀ (s : State) (r : Nat) (b : Byte) (rest : List Presented), s.inbox = .image (.write r b) :: rest →
    (s.pkt = false →
        step s = .next { s with inbox := rest, replies := s.replies ++ [.noPacket] }) ∧
      (s.pkt = true → 8 * s.hdr.cap.toNat ≤ r →
        step s = .next { s with inbox := rest, replies := s.replies ++ [.imgRange] }) ∧
      (s.pkt = true → r < 8 * s.hdr.cap.toNat → s.mem.wf = true →
        ∃ t, step s = .next t ∧ t.mem.read r = b ∧ (∀ a, a ≠ r → t.mem.read a = s.mem.read a) ∧
          { t with mem := s.mem } = { s with inbox := rest, replies := s.replies ++ [.written] })
end

