-- ==== Sys2Proof/Laws/Decode.lean ====
section
/-! SUPPORT. The two fields of a command word, and the word they make up (30_encoding.md R55). -/

namespace Sys2Proof

/-- A bit of a command word is a bit of its operand or of its opcode. -/
theorem getLsbD_word (op : BitVec 8) (arg : Word) (j : Nat) :
    (op ++ arg : CmdWord).getLsbD j = if j < 32 then arg.getLsbD j else op.getLsbD (j - 32) :=
  BitVec.getLsbD_append

/-- The opcode of the word `op ‖ arg`. -/
@[simp] theorem cmdOp_append (op : BitVec 8) (arg : Word) : cmdOp (op ++ arg) = op := by
  refine BitVec.eq_of_getLsbD_eq fun j hj => ?_
  rw [cmdOp, BitVec.getLsbD_extractLsb', getLsbD_word]
  simp [hj]

/-- The operand of the word `op ‖ arg`. -/
@[simp] theorem cmdArg_append (op : BitVec 8) (arg : Word) : cmdArg (op ++ arg) = arg := by
  refine BitVec.eq_of_getLsbD_eq fun j hj => ?_
  rw [cmdArg, BitVec.getLsbD_extractLsb', getLsbD_word]
  simp [hj]

/-- A command word is its opcode over its operand. -/
theorem cmdOp_append_cmdArg (w : CmdWord) : (cmdOp w ++ cmdArg w : CmdWord) = w := by
  refine BitVec.eq_of_getLsbD_eq fun j hj => ?_
  rw [getLsbD_word, cmdOp, cmdArg, BitVec.getLsbD_extractLsb', BitVec.getLsbD_extractLsb']
  by_cases h : j < 32
  · simp [h]
  · simp [h, show j - 32 < 8 by omega, show 32 + (j - 32) = j by omega]

/-- The masks as bits of the opcode and of the operand: a row is selected by the opcode, and then by the
operand's masked part. -/
theorem cmdOp_and (w m : CmdWord) : cmdOp (w &&& m) = cmdOp w &&& cmdOp m := by
  refine BitVec.eq_of_getLsbD_eq fun j hj => ?_
  simp [cmdOp, hj]

theorem cmdArg_and (w m : CmdWord) : cmdArg (w &&& m) = cmdArg w &&& cmdArg m := by
  refine BitVec.eq_of_getLsbD_eq fun j hj => ?_
  simp [cmdArg, hj]

end Sys2Proof
end

