-- ==== Sys2Proof/Laws/Memory.lean ====
section
/-! SUPPORT. The laws of the record region's memory: what a read gives after a write, and that every
memory operation keeps the canonical form. -/

namespace Sys2Proof.Machine

@[simp] theorem Memory.read_nil (a : Nat) : Memory.read [] a = unlistedByte := rfl

theorem Memory.wf_cons (c : Host.Cell) (m : Memory) :
    Memory.wf (c :: m) = true ↔
      c.2 ≠ unlistedByte ∧ (∀ d ∈ m, c.1 < d.1) ∧ Memory.wf m = true := by
  simp [Memory.wf, and_assoc]

/-- An offset below every listed one is unlisted. -/
theorem Memory.read_of_lt_all (m : Memory) (a : Nat) (h : ∀ c ∈ m, a < c.1) :
    Memory.read m a = unlistedByte := by
  induction m with
  | nil => rfl
  | cons c m ih =>
    obtain ⟨k, b⟩ := c
    have hk : a < k := h (k, b) (List.mem_cons_self ..)
    simp only [Memory.read, Nat.ne_of_gt hk, if_false]
    exact ih fun d hd => h d (List.mem_cons_of_mem _ hd)

/-- A write leaves every other offset alone. -/
theorem Memory.read_write_of_ne (m : Memory) (a b : Nat) (v : Byte) (h : b ≠ a) :
    (Memory.write m a v).read b = Memory.read m b := by
  induction m with
  | nil => simp only [Memory.write]; split <;> simp [Memory.read, h.symm]
  | cons c m ih =>
    obtain ⟨k, x⟩ := c
    simp only [Memory.write]
    split_ifs with h1 h2 h3 h4
    · rfl
    · simp [Memory.read, h.symm]
    · subst h3; simp [Memory.read, h.symm]
    · subst h3; simp [Memory.read, h.symm]
    · simp only [Memory.read, ih]

/-- A read after a write to the same offset gives the byte written. -/
theorem Memory.read_write_self (m : Memory) (a : Nat) (v : Byte) (hm : m.wf = true) :
    (Memory.write m a v).read a = v := by
  induction m with
  | nil => simp only [Memory.write]; split <;> simp_all [Memory.read]
  | cons c m ih =>
    obtain ⟨k, x⟩ := c
    obtain ⟨hx, hlt, hw⟩ := (Memory.wf_cons _ _).1 hm
    simp only [Memory.write]
    split_ifs with h1 h2 h3 h4
    · rw [h2]
      refine Memory.read_of_lt_all _ _ fun d hd => ?_
      rcases List.mem_cons.1 hd with rfl | hd
      · exact h1
      · exact lt_trans h1 (hlt d hd)
    · simp [Memory.read]
    · subst h3; rw [h4]; exact Memory.read_of_lt_all _ _ hlt
    · simp [Memory.read]
    · simp only [Memory.read, Ne.symm h3, if_false]; exact ih hw

/-- A write lists no offset but the one written and those listed before. -/
theorem Memory.mem_write (m : Memory) (a : Nat) (v : Byte) (c : Host.Cell)
    (h : c ∈ Memory.write m a v) : c.1 = a ∨ c ∈ m := by
  induction m with
  | nil =>
    simp only [Memory.write] at h
    split at h <;> simp_all
  | cons d m ih =>
    obtain ⟨k, x⟩ := d
    simp only [Memory.write] at h
    split_ifs at h <;> simp only [List.mem_cons] at h ⊢ <;> grind

/-- A write keeps the canonical form. -/
theorem Memory.write_wf (m : Memory) (a : Nat) (v : Byte) (hm : m.wf = true) :
    (Memory.write m a v).wf = true := by
  induction m with
  | nil =>
    simp only [Memory.write]
    split
    · rfl
    · rename_i h
      simpa [Memory.wf] using h
  | cons c m ih =>
    obtain ⟨k, x⟩ := c
    obtain ⟨hx, hlt, hw⟩ := (Memory.wf_cons _ _).1 hm
    simp only [Memory.write]
    split_ifs with h1 h2 h3 h4
    · exact hm
    · refine (Memory.wf_cons _ _).2 ⟨h2, fun d hd => ?_, hm⟩
      rcases List.mem_cons.1 hd with rfl | hd
      · exact h1
      · exact lt_trans h1 (hlt d hd)
    · exact hw
    · exact (Memory.wf_cons _ _).2 ⟨h4, fun d hd => by rw [h3]; exact hlt d hd, hw⟩
    · refine (Memory.wf_cons _ _).2 ⟨hx, fun d hd => ?_, ih hw⟩
      rcases Memory.mem_write m a v d hd with hd | hd
      · show k < d.1
        omega
      · exact hlt d hd

/-- What every offset reads as after a creation clears the slots below it. -/
theorem Memory.read_clearBelow (m : Memory) (n a : Nat) :
    (Memory.clearBelow m n).read a = if a < n then unlistedByte else Memory.read m a := by
  induction m with
  | nil => simp [Memory.clearBelow]
  | cons c m ih =>
    obtain ⟨k, x⟩ := c
    simp only [Memory.clearBelow, List.filter_cons] at ih ⊢
    by_cases hk : n ≤ k
    · simp only [hk, decide_true, if_true, Memory.read, ih]
      split_ifs <;> first | rfl | omega
    · simp only [hk, decide_false, Memory.read]
      rw [if_neg (by simp), ih]
      split_ifs <;> first | rfl | omega

theorem Memory.mem_clearBelow (m : Memory) (n : Nat) (c : Host.Cell)
    (h : c ∈ Memory.clearBelow m n) : c ∈ m := (List.mem_filter.1 h).1

/-- Clearing keeps the canonical form. -/
theorem Memory.clearBelow_wf (m : Memory) (n : Nat) (hm : m.wf = true) :
    (Memory.clearBelow m n).wf = true := by
  induction m with
  | nil => rfl
  | cons c m ih =>
    obtain ⟨hx, hlt, hw⟩ := (Memory.wf_cons _ _).1 hm
    have ih' := ih hw
    simp only [Memory.clearBelow, List.filter_cons] at ih' ⊢
    split
    · exact (Memory.wf_cons _ _).2 ⟨hx, fun d hd => hlt d (List.mem_filter.1 hd).1, ih'⟩
    · exact ih'

/-- Equal memories are equal data: the canonical form is determined by what every offset reads as. -/
theorem Memory.eq_of_read_eq (m n : Memory) (hm : m.wf = true) (hn : n.wf = true)
    (h : ∀ a, Memory.read m a = Memory.read n a) : m = n := by
  induction m generalizing n with
  | nil =>
    cases n with
    | nil => rfl
    | cons c n =>
      obtain ⟨hx, -, -⟩ := (Memory.wf_cons _ _).1 hn
      have := h c.1
      simp [Memory.read] at this
      exact absurd this.symm hx
  | cons c m ih =>
    obtain ⟨k, x⟩ := c
    obtain ⟨hx, hlt, hw⟩ := (Memory.wf_cons _ _).1 hm
    cases n with
    | nil =>
      have := h k
      simp [Memory.read] at this
      exact absurd this hx
    | cons d n =>
      obtain ⟨j, y⟩ := d
      obtain ⟨hy, hlt', hw'⟩ := (Memory.wf_cons _ _).1 hn
      have hkj : k = j := by
        rcases Nat.lt_trichotomy k j with hl | hl | hl
        · have hr : Memory.read ((j, y) :: n) k = unlistedByte := by
            refine Memory.read_of_lt_all _ _ fun d hd => ?_
            rcases List.mem_cons.1 hd with rfl | hd
            · exact hl
            · exact lt_trans hl (hlt' d hd)
          have := h k
          rw [hr] at this
          simp [Memory.read] at this
          exact absurd this hx
        · exact hl
        · have hr : Memory.read ((k, x) :: m) j = unlistedByte := by
            refine Memory.read_of_lt_all _ _ fun d hd => ?_
            rcases List.mem_cons.1 hd with rfl | hd
            · exact hl
            · exact lt_trans hl (hlt d hd)
          have := h j
          rw [hr] at this
          simp [Memory.read] at this
          exact absurd this.symm hy
      subst hkj
      have hxy : x = y := by simpa [Memory.read] using h k
      subst hxy
      rw [ih n hw hw' fun a => ?_]
      by_cases ha : a = k
      · subst ha
        rw [Memory.read_of_lt_all m a hlt, Memory.read_of_lt_all n a hlt']
      · simpa [Memory.read, Ne.symm ha] using h a

/-! ### Words -/

/-- The bytes of a word give the word back (20_memory.md R34). -/
theorem wordOfBytes_wordByte (w : Word) :
    wordOfBytes (wordByte w 0) (wordByte w 1) (wordByte w 2) (wordByte w 3) = w := by
  ext i hi
  simp only [wordOfBytes, wordByte]
  interval_cases i <;> simp

/-- A word's bytes are the bytes it was made of (20_memory.md R34). -/
theorem wordByte_wordOfBytes (b0 b1 b2 b3 : Byte) :
    wordByte (wordOfBytes b0 b1 b2 b3) 0 = b0 ∧ wordByte (wordOfBytes b0 b1 b2 b3) 1 = b1 ∧
      wordByte (wordOfBytes b0 b1 b2 b3) 2 = b2 ∧ wordByte (wordOfBytes b0 b1 b2 b3) 3 = b3 := by
  refine ⟨?_, ?_, ?_, ?_⟩ <;>
  · ext i hi
    simp only [wordOfBytes, wordByte]
    interval_cases i <;> simp

/-- A write of a word, offset by offset. -/
theorem Memory.read_writeWord (m : Memory) (a b : Nat) (w : Word) (hm : m.wf = true) :
    (m.writeWord a w).read b =
      if a ≤ b ∧ b < a + 4 then wordByte w (b - a) else Memory.read m b := by
  have h1 := Memory.write_wf m a (wordByte w 0) hm
  have h2 := Memory.write_wf _ (a + 1) (wordByte w 1) h1
  have h3 := Memory.write_wf _ (a + 2) (wordByte w 2) h2
  by_cases hb : a ≤ b ∧ b < a + 4
  · rw [if_pos hb]
    obtain ⟨hab, hba⟩ := hb
    obtain ⟨j, rfl⟩ := Nat.exists_eq_add_of_le hab
    have hj : j < 4 := by omega
    simp only [Memory.writeWord, Nat.add_sub_cancel_left]
    interval_cases j
    · rw [Memory.read_write_of_ne _ _ _ _ (by omega), Memory.read_write_of_ne _ _ _ _ (by omega),
        Memory.read_write_of_ne _ _ _ _ (by omega)]
      exact Memory.read_write_self _ _ _ hm
    · rw [Memory.read_write_of_ne _ _ _ _ (by omega), Memory.read_write_of_ne _ _ _ _ (by omega)]
      exact Memory.read_write_self _ _ _ h1
    · rw [Memory.read_write_of_ne _ _ _ _ (by omega)]
      exact Memory.read_write_self _ _ _ h2
    · exact Memory.read_write_self _ _ _ h3
  · rw [if_neg hb]
    simp only [Memory.writeWord]
    rw [Memory.read_write_of_ne _ _ _ _ (by omega), Memory.read_write_of_ne _ _ _ _ (by omega),
      Memory.read_write_of_ne _ _ _ _ (by omega), Memory.read_write_of_ne _ _ _ _ (by omega)]

/-- A write of a word leaves every other offset alone, whatever the memory. -/
theorem Memory.read_writeWord_of_outside (m : Memory) (a b : Nat) (w : Word)
    (hb : b < a ∨ a + 4 ≤ b) : (m.writeWord a w).read b = Memory.read m b := by
  simp only [Memory.writeWord]
  rw [Memory.read_write_of_ne _ _ _ _ (by omega), Memory.read_write_of_ne _ _ _ _ (by omega),
    Memory.read_write_of_ne _ _ _ _ (by omega), Memory.read_write_of_ne _ _ _ _ (by omega)]

/-- The word written is the word read. -/
theorem Memory.word_writeWord_self (m : Memory) (a : Nat) (w : Word) (hm : m.wf = true) :
    (m.writeWord a w).word a = w := by
  simp only [Memory.word, Memory.read_writeWord m a _ w hm]
  rw [if_pos (by omega), if_pos (by omega), if_pos (by omega), if_pos (by omega)]
  simp only [Nat.add_sub_cancel_left, Nat.sub_self]
  exact wordOfBytes_wordByte w

/-- A word that shares no byte with the one written is unchanged. -/
theorem Memory.word_writeWord_of_disjoint (m : Memory) (a b : Nat) (w : Word)
    (h : b + 4 ≤ a ∨ a + 4 ≤ b) : (m.writeWord a w).word b = m.word b := by
  simp only [Memory.word]
  rw [Memory.read_writeWord_of_outside _ _ _ _ (by omega),
    Memory.read_writeWord_of_outside _ _ _ _ (by omega),
    Memory.read_writeWord_of_outside _ _ _ _ (by omega),
    Memory.read_writeWord_of_outside _ _ _ _ (by omega)]

/-- A write of a word keeps the canonical form. -/
theorem Memory.writeWord_wf (m : Memory) (a : Nat) (w : Word) (hm : m.wf = true) :
    (m.writeWord a w).wf = true :=
  Memory.write_wf _ _ _ (Memory.write_wf _ _ _ (Memory.write_wf _ _ _ (Memory.write_wf _ _ _ hm)))

/-- A write of a word lists no offset but the four written and those listed before. -/
theorem Memory.mem_writeWord (m : Memory) (a : Nat) (w : Word) (c : Host.Cell)
    (h : c ∈ m.writeWord a w) : (a ≤ c.1 ∧ c.1 < a + 4) ∨ c ∈ m := by
  rcases Memory.mem_write _ _ _ _ h with h | h
  · exact .inl (by omega)
  rcases Memory.mem_write _ _ _ _ h with h | h
  · exact .inl (by omega)
  rcases Memory.mem_write _ _ _ _ h with h | h
  · exact .inl (by omega)
  rcases Memory.mem_write _ _ _ _ h with h | h
  · exact .inl (by omega)
  · exact .inr h

end Sys2Proof.Machine
end

