-- ==== Sys2Proof/Laws/State.lean ====
section
/-! SUPPORT. One lemma per field per update of the state, each true by `rfl`, so that no later proof
unfolds a record update. -/

namespace Sys2Proof.Machine

variable (s : State)

/-! #### `State.respond` -/

@[simp] theorem State.respond_params (v : Value) : (s.respond v).params = s.params := rfl
@[simp] theorem State.respond_pkt (v : Value) : (s.respond v).pkt = s.pkt := rfl
@[simp] theorem State.respond_hdr (v : Value) : (s.respond v).hdr = s.hdr := rfl
@[simp] theorem State.respond_mem (v : Value) : (s.respond v).mem = s.mem := rfl
@[simp] theorem State.respond_sel (v : Value) : (s.respond v).sel = s.sel := rfl
@[simp] theorem State.respond_it (v : Value) : (s.respond v).it = s.it := rfl
@[simp] theorem State.respond_inbox (v : Value) : (s.respond v).inbox = s.inbox := rfl
@[simp] theorem State.respond_draws (v : Value) : (s.respond v).draws = s.draws := rfl
@[simp] theorem State.respond_responses (v : Value) :
    (s.respond v).responses = s.responses ++ [{ status := .ok, value := v }] := rfl
@[simp] theorem State.respond_log (v : Value) : (s.respond v).log = s.log := rfl
@[simp] theorem State.respond_replies (v : Value) : (s.respond v).replies = s.replies := rfl

/-! #### `State.raise` -/

@[simp] theorem State.raise_params (c : Status) (i : Word) : (s.raise c i).params = s.params := rfl
@[simp] theorem State.raise_pkt (c : Status) (i : Word) : (s.raise c i).pkt = s.pkt := rfl
@[simp] theorem State.raise_hdr (c : Status) (i : Word) : (s.raise c i).hdr = s.hdr := rfl
@[simp] theorem State.raise_mem (c : Status) (i : Word) : (s.raise c i).mem = s.mem := rfl
@[simp] theorem State.raise_sel (c : Status) (i : Word) : (s.raise c i).sel = s.sel := rfl
@[simp] theorem State.raise_it (c : Status) (i : Word) : (s.raise c i).it = s.it := rfl
@[simp] theorem State.raise_inbox (c : Status) (i : Word) : (s.raise c i).inbox = s.inbox := rfl
@[simp] theorem State.raise_draws (c : Status) (i : Word) : (s.raise c i).draws = s.draws := rfl
@[simp] theorem State.raise_responses (c : Status) (i : Word) :
    (s.raise c i).responses = s.responses ++ [{ status := c, value := 0 }] := rfl
@[simp] theorem State.raise_log (c : Status) (i : Word) :
    (s.raise c i).log = s.log ++ reportsOf c i := rfl
@[simp] theorem State.raise_replies (c : Status) (i : Word) :
    (s.raise c i).replies = s.replies := rfl

/-! #### `State.select` -/

@[simp] theorem State.select_params (w : Bool) (n : Nat) : (s.select w n).params = s.params := rfl
@[simp] theorem State.select_pkt (w : Bool) (n : Nat) : (s.select w n).pkt = s.pkt := rfl
@[simp] theorem State.select_hdr (w : Bool) (n : Nat) : (s.select w n).hdr = s.hdr := rfl
@[simp] theorem State.select_mem (w : Bool) (n : Nat) : (s.select w n).mem = s.mem := rfl
@[simp] theorem State.select_sel (w : Bool) (n : Nat) :
    (s.select w n).sel = { present := true, w := w, idx := BitVec.ofNat 31 n } := rfl
@[simp] theorem State.select_it (w : Bool) (n : Nat) : (s.select w n).it = s.it := rfl
@[simp] theorem State.select_inbox (w : Bool) (n : Nat) : (s.select w n).inbox = s.inbox := rfl
@[simp] theorem State.select_draws (w : Bool) (n : Nat) : (s.select w n).draws = s.draws := rfl
@[simp] theorem State.select_responses (w : Bool) (n : Nat) :
    (s.select w n).responses = s.responses := rfl
@[simp] theorem State.select_log (w : Bool) (n : Nat) : (s.select w n).log = s.log := rfl
@[simp] theorem State.select_replies (w : Bool) (n : Nat) :
    (s.select w n).replies = s.replies := rfl

/-! #### `State.dropRef` -/

@[simp] theorem State.dropRef_params : (s.dropRef).params = s.params := rfl
@[simp] theorem State.dropRef_pkt : (s.dropRef).pkt = s.pkt := rfl
@[simp] theorem State.dropRef_hdr : (s.dropRef).hdr = s.hdr := rfl
@[simp] theorem State.dropRef_mem : (s.dropRef).mem = s.mem := rfl
@[simp] theorem State.dropRef_sel : (s.dropRef).sel = { s.sel with present := false } := rfl
@[simp] theorem State.dropRef_it : (s.dropRef).it = s.it := rfl
@[simp] theorem State.dropRef_inbox : (s.dropRef).inbox = s.inbox := rfl
@[simp] theorem State.dropRef_draws : (s.dropRef).draws = s.draws := rfl
@[simp] theorem State.dropRef_responses : (s.dropRef).responses = s.responses := rfl
@[simp] theorem State.dropRef_log : (s.dropRef).log = s.log := rfl
@[simp] theorem State.dropRef_replies : (s.dropRef).replies = s.replies := rfl

/-! #### `State.endTraversal` -/

@[simp] theorem State.endTraversal_params : (s.endTraversal).params = s.params := rfl
@[simp] theorem State.endTraversal_pkt : (s.endTraversal).pkt = s.pkt := rfl
@[simp] theorem State.endTraversal_hdr : (s.endTraversal).hdr = s.hdr := rfl
@[simp] theorem State.endTraversal_mem : (s.endTraversal).mem = s.mem := rfl
@[simp] theorem State.endTraversal_sel : (s.endTraversal).sel = s.sel := rfl
@[simp] theorem State.endTraversal_it : (s.endTraversal).it = { s.it with active := false } := rfl
@[simp] theorem State.endTraversal_inbox : (s.endTraversal).inbox = s.inbox := rfl
@[simp] theorem State.endTraversal_draws : (s.endTraversal).draws = s.draws := rfl
@[simp] theorem State.endTraversal_responses : (s.endTraversal).responses = s.responses := rfl
@[simp] theorem State.endTraversal_log : (s.endTraversal).log = s.log := rfl
@[simp] theorem State.endTraversal_replies : (s.endTraversal).replies = s.replies := rfl

/-! #### `State.advance` -/

@[simp] theorem State.advance_params : (s.advance).params = s.params := rfl
@[simp] theorem State.advance_pkt : (s.advance).pkt = s.pkt := rfl
@[simp] theorem State.advance_hdr : (s.advance).hdr = s.hdr := rfl
@[simp] theorem State.advance_mem : (s.advance).mem = s.mem := rfl
@[simp] theorem State.advance_sel : (s.advance).sel = s.sel := rfl
@[simp] theorem State.advance_it :
    (s.advance).it = { s.it with pos := if s.it.rev then s.it.pos - 1 else s.it.pos + 1 } := rfl
@[simp] theorem State.advance_inbox : (s.advance).inbox = s.inbox := rfl
@[simp] theorem State.advance_draws : (s.advance).draws = s.draws := rfl
@[simp] theorem State.advance_responses : (s.advance).responses = s.responses := rfl
@[simp] theorem State.advance_log : (s.advance).log = s.log := rfl
@[simp] theorem State.advance_replies : (s.advance).replies = s.replies := rfl

/-! #### `State.setHdr` -/

@[simp] theorem State.setHdr_params (h : Header) : (s.setHdr h).params = s.params := rfl
@[simp] theorem State.setHdr_pkt (h : Header) : (s.setHdr h).pkt = s.pkt := rfl
@[simp] theorem State.setHdr_hdr (h : Header) : (s.setHdr h).hdr = h := rfl
@[simp] theorem State.setHdr_mem (h : Header) : (s.setHdr h).mem = s.mem := rfl
@[simp] theorem State.setHdr_sel (h : Header) : (s.setHdr h).sel = s.sel := rfl
@[simp] theorem State.setHdr_it (h : Header) : (s.setHdr h).it = s.it := rfl
@[simp] theorem State.setHdr_inbox (h : Header) : (s.setHdr h).inbox = s.inbox := rfl
@[simp] theorem State.setHdr_draws (h : Header) : (s.setHdr h).draws = s.draws := rfl
@[simp] theorem State.setHdr_responses (h : Header) : (s.setHdr h).responses = s.responses := rfl
@[simp] theorem State.setHdr_log (h : Header) : (s.setHdr h).log = s.log := rfl
@[simp] theorem State.setHdr_replies (h : Header) : (s.setHdr h).replies = s.replies := rfl

/-! #### `State.countIn` -/

@[simp] theorem State.countIn_params : (s.countIn).params = s.params := rfl
@[simp] theorem State.countIn_pkt : (s.countIn).pkt = s.pkt := rfl
@[simp] theorem State.countIn_hdr :
    (s.countIn).hdr = { s.hdr with evcnt := s.hdr.evcnt + 1, valcnt := s.hdr.valcnt + 1 } := rfl
@[simp] theorem State.countIn_mem : (s.countIn).mem = s.mem := rfl
@[simp] theorem State.countIn_sel : (s.countIn).sel = s.sel := rfl
@[simp] theorem State.countIn_it : (s.countIn).it = s.it := rfl
@[simp] theorem State.countIn_inbox : (s.countIn).inbox = s.inbox := rfl
@[simp] theorem State.countIn_draws : (s.countIn).draws = s.draws := rfl
@[simp] theorem State.countIn_responses : (s.countIn).responses = s.responses := rfl
@[simp] theorem State.countIn_log : (s.countIn).log = s.log := rfl
@[simp] theorem State.countIn_replies : (s.countIn).replies = s.replies := rfl

/-! #### `State.countOut` -/

@[simp] theorem State.countOut_params : (s.countOut).params = s.params := rfl
@[simp] theorem State.countOut_pkt : (s.countOut).pkt = s.pkt := rfl
@[simp] theorem State.countOut_hdr :
    (s.countOut).hdr = { s.hdr with valcnt := s.hdr.valcnt - 1 } := rfl
@[simp] theorem State.countOut_mem : (s.countOut).mem = s.mem := rfl
@[simp] theorem State.countOut_sel : (s.countOut).sel = s.sel := rfl
@[simp] theorem State.countOut_it : (s.countOut).it = s.it := rfl
@[simp] theorem State.countOut_inbox : (s.countOut).inbox = s.inbox := rfl
@[simp] theorem State.countOut_draws : (s.countOut).draws = s.draws := rfl
@[simp] theorem State.countOut_responses : (s.countOut).responses = s.responses := rfl
@[simp] theorem State.countOut_log : (s.countOut).log = s.log := rfl
@[simp] theorem State.countOut_replies : (s.countOut).replies = s.replies := rfl

/-! #### `State.create` -/

@[simp] theorem State.create_params (cap : Word) : (s.create cap).params = s.params := rfl
@[simp] theorem State.create_pkt (cap : Word) : (s.create cap).pkt = true := rfl
@[simp] theorem State.create_hdr (cap : Word) :
    (s.create cap).hdr = { type := s.params.spikeEventTag, source := 0, cap := cap, evcnt := 0, valcnt := 0, ovf := 0 } := rfl
@[simp] theorem State.create_mem (cap : Word) :
    (s.create cap).mem = s.mem.clearBelow (8 * toU32 cap) := rfl
@[simp] theorem State.create_sel (cap : Word) :
    (s.create cap).sel = { s.sel with present := false } := rfl
@[simp] theorem State.create_it (cap : Word) :
    (s.create cap).it = { s.it with active := false } := rfl
@[simp] theorem State.create_inbox (cap : Word) : (s.create cap).inbox = s.inbox := rfl
@[simp] theorem State.create_draws (cap : Word) : (s.create cap).draws = s.draws := rfl
@[simp] theorem State.create_responses (cap : Word) : (s.create cap).responses = s.responses := rfl
@[simp] theorem State.create_log (cap : Word) : (s.create cap).log = s.log := rfl
@[simp] theorem State.create_replies (cap : Word) : (s.create cap).replies = s.replies := rfl

/-! #### `State.release` -/

@[simp] theorem State.release_params : (s.release).params = s.params := rfl
@[simp] theorem State.release_pkt : (s.release).pkt = false := rfl
@[simp] theorem State.release_hdr : (s.release).hdr = s.hdr := rfl
@[simp] theorem State.release_mem : (s.release).mem = s.mem := rfl
@[simp] theorem State.release_sel : (s.release).sel = { s.sel with present := false } := rfl
@[simp] theorem State.release_it : (s.release).it = { s.it with active := false } := rfl
@[simp] theorem State.release_inbox : (s.release).inbox = s.inbox := rfl
@[simp] theorem State.release_draws : (s.release).draws = s.draws := rfl
@[simp] theorem State.release_responses : (s.release).responses = s.responses := rfl
@[simp] theorem State.release_log : (s.release).log = s.log := rfl
@[simp] theorem State.release_replies : (s.release).replies = s.replies := rfl

/-! #### `State.reply` -/

@[simp] theorem State.reply_params (r : ImageReply) : (s.reply r).params = s.params := rfl
@[simp] theorem State.reply_pkt (r : ImageReply) : (s.reply r).pkt = s.pkt := rfl
@[simp] theorem State.reply_hdr (r : ImageReply) : (s.reply r).hdr = s.hdr := rfl
@[simp] theorem State.reply_mem (r : ImageReply) : (s.reply r).mem = s.mem := rfl
@[simp] theorem State.reply_sel (r : ImageReply) : (s.reply r).sel = s.sel := rfl
@[simp] theorem State.reply_it (r : ImageReply) : (s.reply r).it = s.it := rfl
@[simp] theorem State.reply_inbox (r : ImageReply) : (s.reply r).inbox = s.inbox := rfl
@[simp] theorem State.reply_draws (r : ImageReply) : (s.reply r).draws = s.draws := rfl
@[simp] theorem State.reply_responses (r : ImageReply) : (s.reply r).responses = s.responses := rfl
@[simp] theorem State.reply_log (r : ImageReply) : (s.reply r).log = s.log := rfl
@[simp] theorem State.reply_replies (r : ImageReply) : (s.reply r).replies = s.replies ++ [r] := rfl

/-! #### `State.writeByte` -/

@[simp] theorem State.writeByte_params (r : Nat) (b : Byte) :
    (s.writeByte r b).params = s.params := rfl
@[simp] theorem State.writeByte_pkt (r : Nat) (b : Byte) : (s.writeByte r b).pkt = s.pkt := rfl
@[simp] theorem State.writeByte_hdr (r : Nat) (b : Byte) : (s.writeByte r b).hdr = s.hdr := rfl
@[simp] theorem State.writeByte_mem (r : Nat) (b : Byte) :
    (s.writeByte r b).mem = s.mem.write r b := rfl
@[simp] theorem State.writeByte_sel (r : Nat) (b : Byte) : (s.writeByte r b).sel = s.sel := rfl
@[simp] theorem State.writeByte_it (r : Nat) (b : Byte) : (s.writeByte r b).it = s.it := rfl
@[simp] theorem State.writeByte_inbox (r : Nat) (b : Byte) :
    (s.writeByte r b).inbox = s.inbox := rfl
@[simp] theorem State.writeByte_draws (r : Nat) (b : Byte) :
    (s.writeByte r b).draws = s.draws := rfl
@[simp] theorem State.writeByte_responses (r : Nat) (b : Byte) :
    (s.writeByte r b).responses = s.responses := rfl
@[simp] theorem State.writeByte_log (r : Nat) (b : Byte) : (s.writeByte r b).log = s.log := rfl
@[simp] theorem State.writeByte_replies (r : Nat) (b : Byte) :
    (s.writeByte r b).replies = s.replies := rfl

/-! #### `State.take` -/

@[simp] theorem State.take_params (rest : List Presented) : (s.take rest).params = s.params := rfl
@[simp] theorem State.take_pkt (rest : List Presented) : (s.take rest).pkt = s.pkt := rfl
@[simp] theorem State.take_hdr (rest : List Presented) : (s.take rest).hdr = s.hdr := rfl
@[simp] theorem State.take_mem (rest : List Presented) : (s.take rest).mem = s.mem := rfl
@[simp] theorem State.take_sel (rest : List Presented) : (s.take rest).sel = s.sel := rfl
@[simp] theorem State.take_it (rest : List Presented) : (s.take rest).it = s.it := rfl
@[simp] theorem State.take_inbox (rest : List Presented) : (s.take rest).inbox = rest := rfl
@[simp] theorem State.take_draws (rest : List Presented) : (s.take rest).draws = s.draws := rfl
@[simp] theorem State.take_responses (rest : List Presented) :
    (s.take rest).responses = s.responses := rfl
@[simp] theorem State.take_log (rest : List Presented) : (s.take rest).log = s.log := rfl
@[simp] theorem State.take_replies (rest : List Presented) :
    (s.take rest).replies = s.replies := rfl

/-! #### `State.draw` -/

@[simp] theorem State.draw_params : (s.draw).params = s.params := rfl
@[simp] theorem State.draw_pkt : (s.draw).pkt = s.pkt := rfl
@[simp] theorem State.draw_hdr : (s.draw).hdr = s.hdr := rfl
@[simp] theorem State.draw_mem : (s.draw).mem = s.mem := rfl
@[simp] theorem State.draw_sel : (s.draw).sel = s.sel := rfl
@[simp] theorem State.draw_it : (s.draw).it = s.it := rfl
@[simp] theorem State.draw_inbox : (s.draw).inbox = s.inbox := rfl
@[simp] theorem State.draw_draws : (s.draw).draws = s.draws + 1 := rfl
@[simp] theorem State.draw_responses : (s.draw).responses = s.responses := rfl
@[simp] theorem State.draw_log : (s.draw).log = s.log := rfl
@[simp] theorem State.draw_replies : (s.draw).replies = s.replies := rfl

/-! #### `State.hardReset` -/

@[simp] theorem State.hardReset_params : (s.hardReset).params = s.params := rfl
@[simp] theorem State.hardReset_pkt : (s.hardReset).pkt = State.reset.pkt := rfl
@[simp] theorem State.hardReset_hdr : (s.hardReset).hdr = State.reset.hdr := rfl
@[simp] theorem State.hardReset_mem : (s.hardReset).mem = State.reset.mem := rfl
@[simp] theorem State.hardReset_sel : (s.hardReset).sel = State.reset.sel := rfl
@[simp] theorem State.hardReset_it : (s.hardReset).it = State.reset.it := rfl
@[simp] theorem State.hardReset_inbox : (s.hardReset).inbox = s.inbox := rfl
@[simp] theorem State.hardReset_draws : (s.hardReset).draws = s.draws := rfl
@[simp] theorem State.hardReset_responses : (s.hardReset).responses = s.responses := rfl
@[simp] theorem State.hardReset_log : (s.hardReset).log = s.log := rfl
@[simp] theorem State.hardReset_replies : (s.hardReset).replies = s.replies := rfl

/-! #### `State.withFetchWord` -/

@[simp] theorem State.withFetchWord_params (n w : Nat) :
    (s.withFetchWord n w).params = s.params := rfl
@[simp] theorem State.withFetchWord_pkt (n w : Nat) : (s.withFetchWord n w).pkt = s.pkt := rfl
@[simp] theorem State.withFetchWord_hdr (n w : Nat) : (s.withFetchWord n w).hdr = s.hdr := rfl
@[simp] theorem State.withFetchWord_mem (n w : Nat) : (s.withFetchWord n w).mem = s.mem := rfl
@[simp] theorem State.withFetchWord_sel (n w : Nat) : (s.withFetchWord n w).sel = s.sel := rfl
@[simp] theorem State.withFetchWord_it (n w : Nat) : (s.withFetchWord n w).it = s.it := rfl
@[simp] theorem State.withFetchWord_inbox (n w : Nat) :
    (s.withFetchWord n w).inbox = .command (tableWord n w) :: s.inbox := rfl
@[simp] theorem State.withFetchWord_draws (n w : Nat) : (s.withFetchWord n w).draws = s.draws := rfl
@[simp] theorem State.withFetchWord_responses (n w : Nat) :
    (s.withFetchWord n w).responses = s.responses := rfl
@[simp] theorem State.withFetchWord_log (n w : Nat) : (s.withFetchWord n w).log = s.log := rfl
@[simp] theorem State.withFetchWord_replies (n w : Nat) :
    (s.withFetchWord n w).replies = s.replies := rfl

end Sys2Proof.Machine
end

