-- ==== Sys2Proof/Laws/Ops.lean ====
section
/-! SUPPORT. What each shared operation can do, said once: the gates, the record words, and the loop of
`ITNEXT`. Later proofs cite these and do not unfold the operations. -/

namespace Sys2Proof.Machine

/-! ### Raising and continuing -/

theorem reportsOf_of_not_reported {c : Status} (i : Word) (h : c.reported = false) :
    reportsOf c i = [] := by simp [reportsOf, h]

/-- An unreported condition changes the responses only. -/
theorem raise_eq_answering (s : State) (c : Status) (i : Word) (h : c.reported = false) :
    s.raise c i = answering s c 0 := by
  simp [State.raise, answering, reportsOf, h]

/-- A reported condition adds one report. -/
theorem raise_eq_reporting (s : State) (c : Status) (i : Word) (h : c.reported = true) :
    s.raise c i = reporting s c i := by
  simp [State.raise, reporting, reportsOf, h]

theorem respond_eq_answering (s : State) (v : Value) : s.respond v = answering s .ok v := rfl

theorem refuse_eq_next_iff (s : State) (c : Status) (t : State) :
    refuse s c = .next t ↔ s.raise c 0 = t := by
  simp [refuse]

theorem orFault_eq_next_iff {α : Type} (x : Except Fault α) (k : α → Result) (t : State) :
    orFault x k = .next t ↔ ∃ a, x = .ok a ∧ k a = .next t := by
  cases x <;> simp [orFault]

@[simp] theorem orFault_ok {α : Type} (a : α) (k : α → Result) : orFault (.ok a) k = k a := rfl

/-! ### The gates -/

/-- `gate(H)` either stops the command with no packet or lets it run. -/
theorem gateH_cases {s : State} {k : Result} {t : State} (h : gateH s k = .next t) :
    (s.pkt = false ∧ t = s.raise .xNoPacket 0) ∨ (s.pkt = true ∧ k = .next t) := by
  unfold gateH at h
  split at h
  · exact .inr ⟨‹_›, h⟩
  · exact .inl ⟨by simpa using ‹¬s.pkt = true›, ((refuse_eq_next_iff ..).1 h).symm⟩

/-- `gate(A)` either stops the command with a packet already there or lets it run. -/
theorem gateA_cases {s : State} {k : Result} {t : State} (h : gateA s k = .next t) :
    (s.pkt = true ∧ t = s.raise .xAlreadyAllocated 0) ∨ (s.pkt = false ∧ k = .next t) := by
  unfold gateA at h
  split at h
  · exact .inl ⟨‹_›, ((refuse_eq_next_iff ..).1 h).symm⟩
  · exact .inr ⟨by simpa using ‹¬s.pkt = true›, h⟩

/-- The tag test either stops the command or lets it run. -/
theorem checkTag_cases {s : State} {k : Result} {t : State} (h : checkTag s k = .next t) :
    (s.tagMatches = false ∧ t = s.raise .nTagMismatch 0) ∨ (s.tagMatches = true ∧ k = .next t) := by
  unfold checkTag at h
  split at h
  · exact .inr ⟨‹_›, h⟩
  · exact .inl ⟨by simpa using ‹¬s.tagMatches = true›, ((refuse_eq_next_iff ..).1 h).symm⟩

/-- The illegal-word test of class H either stops the command or lets it run. -/
theorem gateHalf_cases {arg : Word} {s : State} {k : Result} {t : State}
    (h : gateHalf arg s k = .next t) :
    (argHigh arg ≠ 0 ∧ t = s.raise .xIllegalCmd 0) ∨ (argHigh arg = 0 ∧ k = .next t) := by
  unfold gateHalf at h
  split at h
  · exact .inr ⟨‹_›, h⟩
  · exact .inl ⟨‹_›, ((refuse_eq_next_iff ..).1 h).symm⟩

/-- The conditions a gate can stop a command with, each of them unreported. -/
def gateCondition (c : Status) : Prop :=
  c = .xNoPacket ∨ c = .nTagMismatch ∨ c = .xNullRef ∨ c = .xReadonlyRef

/-- `gate(P)` either stops the command with an unreported condition, or a packet of the spike kind is
there and the command runs. -/
theorem gateP_cases {s : State} {k : Result} {t : State} (h : gateP s k = .next t) :
    (∃ c, gateCondition c ∧ t = s.raise c 0) ∨
      (s.pkt = true ∧ s.tagMatches = true ∧ k = .next t) := by
  rcases gateH_cases h with ⟨-, rfl⟩ | ⟨hp, h⟩
  · exact .inl ⟨_, .inl rfl, rfl⟩
  rcases checkTag_cases h with ⟨-, rfl⟩ | ⟨ht, h⟩
  · exact .inl ⟨_, .inr (.inl rfl), rfl⟩
  exact .inr ⟨hp, ht, h⟩

/-- `gate(R)` either stops the command with an unreported condition, or a record of a spike packet is
selected and the command runs. -/
theorem gateR_cases {s : State} {k : Result} {t : State} (h : gateR s k = .next t) :
    (∃ c, gateCondition c ∧ t = s.raise c 0) ∨
      (s.pkt = true ∧ s.tagMatches = true ∧ s.sel.present = true ∧ k = .next t) := by
  rcases gateP_cases h with h | ⟨hp, ht, h⟩
  · exact .inl h
  split at h
  · exact .inr ⟨hp, ht, ‹_›, h⟩
  · exact .inl ⟨_, .inr (.inr (.inl rfl)), ((refuse_eq_next_iff ..).1 h).symm⟩

/-- `gate(W)` either stops the command with an unreported condition, or a record of a spike packet is
selected through a mutable reference and the command runs. -/
theorem gateW_cases {s : State} {k : Result} {t : State} (h : gateW s k = .next t) :
    (∃ c, gateCondition c ∧ t = s.raise c 0) ∨
      (s.pkt = true ∧ s.tagMatches = true ∧ s.sel.present = true ∧ s.sel.w = true ∧
        k = .next t) := by
  rcases gateR_cases h with h | ⟨hp, ht, hs, h⟩
  · exact .inl h
  split at h
  · exact .inr ⟨hp, ht, hs, ‹_›, h⟩
  · exact .inl ⟨_, .inr (.inr (.inr rfl)), ((refuse_eq_next_iff ..).1 h).symm⟩

theorem gateCondition.not_reported {c : Status} (h : gateCondition c) : c.reported = false := by
  rcases h with rfl | rfl | rfl | rfl <;> rfl

/-- The gates as the table of R165 lists them: a check that fails stops the command with the first such
status, and otherwise the command runs. -/
theorem gateH_eq (s : State) (k : Result) :
    gateH s k = match gateStatus .H s with
      | some c => .next (answering s c 0)
      | none => k := by
  cases hp : s.pkt <;>
    simp [gateH, gateStatus, gateChecks, firstFailing, hp, refuse]
  exact raise_eq_answering _ _ _ rfl

theorem gateA_eq (s : State) (k : Result) :
    gateA s k = match gateStatus .A s with
      | some c => .next (answering s c 0)
      | none => k := by
  cases hp : s.pkt <;>
    simp [gateA, gateStatus, gateChecks, firstFailing, hp, refuse]
  exact raise_eq_answering _ _ _ rfl

theorem gateP_eq (s : State) (k : Result) :
    gateP s k = match gateStatus .P s with
      | some c => .next (answering s c 0)
      | none => k := by
  cases hp : s.pkt <;> by_cases ht : s.hdr.type = s.params.spikeEventTag <;>
    simp [gateP, gateH, checkTag, State.tagMatches, gateStatus, gateChecks, firstFailing, hp, ht, refuse] <;>
    exact raise_eq_answering _ _ _ rfl

theorem gateR_eq (s : State) (k : Result) :
    gateR s k = match gateStatus .R s with
      | some c => .next (answering s c 0)
      | none => k := by
  cases hp : s.pkt <;> by_cases ht : s.hdr.type = s.params.spikeEventTag <;> cases hs : s.sel.present <;>
    simp [gateR, gateP, gateH, checkTag, State.tagMatches, gateStatus, gateChecks, firstFailing, hp, ht,
      hs, refuse] <;>
    exact raise_eq_answering _ _ _ rfl

theorem gateW_eq (s : State) (k : Result) :
    gateW s k = match gateStatus .W s with
      | some c => .next (answering s c 0)
      | none => k := by
  cases hp : s.pkt <;> by_cases ht : s.hdr.type = s.params.spikeEventTag <;> cases hs : s.sel.present <;>
    cases hw : s.sel.w <;>
    simp [gateW, gateR, gateP, gateH, checkTag, State.tagMatches, gateStatus, gateChecks, firstFailing, hp,
      ht, hs, hw, refuse] <;>
    exact raise_eq_answering _ _ _ rfl

/-! ### The record words -/

/-- The field word of a slot of the packet can be read. -/
theorem readData_of_lt {s : State} {i : Nat} (h : i < toU32 s.hdr.cap) :
    readData s i = .ok (s.dataOf i) := by
  unfold readData memRead4
  exact if_pos (by unfold dataAddr State.regionSize; omega)

/-- The timestamp word of a slot of the packet can be read. -/
theorem readTs_of_lt {s : State} {i : Nat} (h : i < toU32 s.hdr.cap) :
    readTs s i = .ok (s.tsOf i) := by
  unfold readTs memRead4
  exact if_pos (by unfold tsAddr State.regionSize; omega)

/-- The field word of a slot of the packet can be written. -/
theorem writeData_of_lt {s : State} {i : Nat} (w : Word) (h : i < toU32 s.hdr.cap) :
    writeData s i w = .ok { s with mem := s.mem.writeWord (dataAddr i) w } := by
  unfold writeData memWrite4
  exact if_pos (by unfold dataAddr State.regionSize; omega)

/-- The timestamp word of a slot of the packet can be written. -/
theorem writeTs_of_lt {s : State} {i : Nat} (w : Word) (h : i < toU32 s.hdr.cap) :
    writeTs s i w = .ok { s with mem := s.mem.writeWord (tsAddr i) w } := by
  unfold writeTs memWrite4
  exact if_pos (by unfold tsAddr State.regionSize; omega)

/-- A field word that was read is that of a slot of the packet. -/
theorem readData_cases {s : State} {i : Nat} {d : Word} (h : readData s i = .ok d) :
    i < toU32 s.hdr.cap ∧ d = s.dataOf i := by
  unfold readData memRead4 at h
  split at h
  · rename_i hle
    unfold dataAddr State.regionSize at hle
    exact ⟨by omega, (Except.ok.inj h).symm⟩
  · simp at h

/-- A timestamp word that was read is that of a slot of the packet. -/
theorem readTs_cases {s : State} {i : Nat} {t : Word} (h : readTs s i = .ok t) :
    i < toU32 s.hdr.cap ∧ t = s.tsOf i := by
  unfold readTs memRead4 at h
  split at h
  · rename_i hle
    unfold tsAddr State.regionSize at hle
    exact ⟨by omega, (Except.ok.inj h).symm⟩
  · simp at h

/-- A field word that was written is that of a slot of the packet. -/
theorem writeData_cases {s s' : State} {i : Nat} {w : Word} (h : writeData s i w = .ok s') :
    i < toU32 s.hdr.cap ∧ s' = { s with mem := s.mem.writeWord (dataAddr i) w } := by
  unfold writeData memWrite4 at h
  split at h
  · rename_i hle
    unfold dataAddr State.regionSize at hle
    exact ⟨by omega, (Except.ok.inj h).symm⟩
  · simp at h

/-- A timestamp word that was written is that of a slot of the packet. -/
theorem writeTs_cases {s s' : State} {i : Nat} {w : Word} (h : writeTs s i w = .ok s') :
    i < toU32 s.hdr.cap ∧ s' = { s with mem := s.mem.writeWord (tsAddr i) w } := by
  unfold writeTs memWrite4 at h
  split at h
  · rename_i hle
    unfold tsAddr State.regionSize at hle
    exact ⟨by omega, (Except.ok.inj h).symm⟩
  · simp at h

/-- The read-modify-write of the selected field word, where the selected slot is in the packet. -/
theorem modifyData_of_lt {s : State} (f : Word → Word) (k : State → State)
    (h : s.cur < toU32 s.hdr.cap) :
    modifyData s f k =
      .next ((k { s with mem := s.mem.writeWord (dataAddr s.cur) (f (s.dataOf s.cur)) }).respond 0) := by
  simp only [modifyData, readData_of_lt h, orFault_ok, writeData_of_lt _ h]

/-- The read-modify-write of the selected field word, when it goes on. -/
theorem modifyData_cases {s t : State} {f : Word → Word} {k : State → State}
    (h : modifyData s f k = .next t) :
    s.cur < toU32 s.hdr.cap ∧
      t = (k { s with mem := s.mem.writeWord (dataAddr s.cur) (f (s.dataOf s.cur)) }).respond 0 := by
  simp only [modifyData, orFault_eq_next_iff] at h
  obtain ⟨d, hd, s', hs, h⟩ := h
  obtain ⟨hc, rfl⟩ := readData_cases hd
  obtain ⟨-, rfl⟩ := writeData_cases hs
  exact ⟨hc, by simpa using h.symm⟩

/-- The field word of a slot after a field word of a slot is written. -/
theorem dataOf_writeData {s : State} (hm : s.mem.wf = true) (i j : Nat) (w : Word) :
    ({ s with mem := s.mem.writeWord (dataAddr i) w } : State).dataOf j =
      if j = i then w else s.dataOf j := by
  by_cases h : j = i
  · subst h
    simp only [State.dataOf, if_true]
    exact Memory.word_writeWord_self _ _ _ hm
  · simp only [State.dataOf, if_neg h]
    exact Memory.word_writeWord_of_disjoint _ _ _ _ (by simp only [dataAddr]; omega)

/-- No timestamp word changes when a field word is written. -/
theorem tsOf_writeData (s : State) (i j : Nat) (w : Word) :
    ({ s with mem := s.mem.writeWord (dataAddr i) w } : State).tsOf j = s.tsOf j :=
  Memory.word_writeWord_of_disjoint _ _ _ _ (by simp only [dataAddr, tsAddr]; omega)

/-- The timestamp word of a slot after a timestamp word of a slot is written. -/
theorem tsOf_writeTs {s : State} (hm : s.mem.wf = true) (i j : Nat) (w : Word) :
    ({ s with mem := s.mem.writeWord (tsAddr i) w } : State).tsOf j =
      if j = i then w else s.tsOf j := by
  by_cases h : j = i
  · subst h
    simp only [State.tsOf, if_true]
    exact Memory.word_writeWord_self _ _ _ hm
  · simp only [State.tsOf, if_neg h]
    exact Memory.word_writeWord_of_disjoint _ _ _ _ (by simp only [tsAddr]; omega)

/-- No field word changes when a timestamp word is written. -/
theorem dataOf_writeTs (s : State) (i j : Nat) (w : Word) :
    ({ s with mem := s.mem.writeWord (tsAddr i) w } : State).dataOf j = s.dataOf j :=
  Memory.word_writeWord_of_disjoint _ _ _ _ (by simp only [dataAddr, tsAddr]; omega)

/-! ### The loop of `ITNEXT` -/

/-- `s` with its traversal at another position. -/
def State.atPos (s : State) (pos : Word) : State := { s with it := { s.it with pos := pos } }

theorem skipsSlot_cases {s : State} {p : Nat} {b : Bool} (h : skipsSlot s p = .ok b) :
    b = (s.it.vonly && !isValid (s.dataOf p)) := by
  unfold skipsSlot at h
  split at h
  · cases hd : readData s p with
    | error f => simp [hd, Except.map] at h
    | ok d =>
      obtain ⟨-, rfl⟩ := readData_cases hd
      simp [hd, Except.map] at h
      simp [*]
  · simp_all

/-- A slot of the packet can always be tested. -/
theorem skipsSlot_of_lt {s : State} {p : Nat} (h : p < toU32 s.hdr.cap) :
    skipsSlot s p = .ok (s.it.vonly && !isValid (s.dataOf p)) := by
  unfold skipsSlot
  split
  · simp [readData_of_lt h, Except.map, *]
  · simp_all

/-- Everything the loop of `ITNEXT` can do: it moves the position and then ends the traversal, meets the
bounds check, or hands out a slot of the packet that the traversal does not skip. -/
theorem scan_cases {k : Nat} {s t : State} (h : scan k s = .next t) :
    ∃ pos : Word,
      t = (s.atPos pos).endTraversal.raise .nEnd 0 ∨
      t = (s.atPos pos).endTraversal.raise .eBounds pos ∨
      ∃ p : Nat, toS32 pos = (p : Int) ∧ p < toU32 s.hdr.cap ∧
        (s.it.vonly && !isValid (s.dataOf p)) = false ∧
        t = ((s.atPos pos).advance.select s.it.mutable p).respond (BitVec.ofNat 64 p) := by
  induction k generalizing s with
  | zero => exact ⟨s.it.pos, .inl ((refuse_eq_next_iff ..).1 h).symm⟩
  | succ k ih =>
    unfold scan at h
    split at h
    · simp at h
    · rename_i p hp
      split at h
      · exact ⟨s.it.pos, .inr (.inl (Host.Outcome.next.inj h).symm)⟩
      · rename_i hlt
        rw [skipsSlot_of_lt (by omega), orFault_ok] at h
        split at h
        · exact ih (s := s.advance) h
        · rename_i hb
          exact ⟨s.it.pos, .inr (.inr ⟨p, hp, by omega, by simpa using hb,
            (Host.Outcome.next.inj h).symm⟩)⟩

end Sys2Proof.Machine
end

