-- ==== Sys2Proof/Laws/PerInstr.lean ====
section
/-! SUPPORT. Claims about every command, made per command. -/

namespace Sys2Proof.Laws.TableRow

open Sys2Proof

/-- A well-formed command's word selects the command's row of the opcode table, and that row is in the
table (30_encoding.md R57). -/
def Statement (i : Instr) : Prop :=
  i.wellFormed = true → i.row.selects (encode i) = true ∧ i.row ∈ opcodeTable

theorem row_mem (i : Instr) : i.row ∈ opcodeTable := by
  cases i <;> simp [opcodeTable, rowSamples, Instr.row]

/-- A row is selected by a word that agrees with its pattern under its mask, bit by bit. -/
theorem selects_of_bits (m : String) (op : BitVec 8) (arg : Word) (pattern mask : CmdWord)
    (hp : pattern = op ++ 0#32)
    (hop : ∀ j, 32 ≤ j → j < 40 → mask.getLsbD j = true)
    (harg : ∀ j, j < 32 → (arg.getLsbD j && mask.getLsbD j) = false) :
    OpcodeRow.selects ⟨m, pattern, mask⟩ (op ++ arg) = true := by
  subst hp
  refine beq_iff_eq.2 (BitVec.eq_of_getLsbD_eq fun j hj => ?_)
  rw [BitVec.getLsbD_and, getLsbD_word, getLsbD_word]
  by_cases h : j < 32
  · simpa [h] using harg j h
  · simp [h, hop j (by omega) hj]

theorem maskN_op (j : Nat) (h : 32 ≤ j) (h' : j < 40) : maskN.getLsbD j = true := by
  interval_cases j <;> rfl

theorem maskUS_op (j : Nat) (h : 32 ≤ j) (h' : j < 40) : maskUS.getLsbD j = true := by
  interval_cases j <;> rfl

theorem maskH_op (j : Nat) (h : 32 ≤ j) (h' : j < 40) : maskH.getLsbD j = true := by
  interval_cases j <;> rfl

theorem maskUS_arg (j : Nat) (h : j < 32) : maskUS.getLsbD j = false := by
  interval_cases j <;> rfl

theorem maskH_low (j : Nat) (h : j < 16) : maskH.getLsbD j = false := by
  interval_cases j <;> rfl

/-- A class N row is selected by its one word. -/
theorem selects_N (m : String) (op : BitVec 8) (pattern : CmdWord) (hp : pattern = op ++ 0#32) :
    OpcodeRow.selects ⟨m, pattern, maskN⟩ (op ++ 0#32) = true :=
  selects_of_bits m op 0 pattern maskN hp maskN_op fun j _ => by simp

/-- A class U or S row is selected whatever the operand. -/
theorem selects_US (m : String) (op : BitVec 8) (pattern : CmdWord) (hp : pattern = op ++ 0#32)
    (arg : Word) : OpcodeRow.selects ⟨m, pattern, maskUS⟩ (op ++ arg) = true :=
  selects_of_bits m op arg pattern maskUS hp maskUS_op fun j hj => by simp [maskUS_arg j hj]

/-- A class H row is selected when the operand's high half is zero. -/
theorem selects_H (m : String) (op : BitVec 8) (pattern : CmdWord) (hp : pattern = op ++ 0#32)
    (arg : Word) (h : halfOperand arg = true) :
    OpcodeRow.selects ⟨m, pattern, maskH⟩ (op ++ arg) = true :=
  selects_of_bits m op arg pattern maskH hp maskH_op fun j hj => by
    by_cases hl : j < 16
    · simp [maskH_low j hl]
    · have hb := congrArg (fun x : BitVec 16 => x.getLsbD (j - 16)) (beq_iff_eq.1 h)
      have hj' : 16 + (j - 16) = j := by omega
      have : arg.getLsbD j = false := by simpa [hj', show j - 16 < 16 by omega] using hb
      simp [this]

theorem getcore : Statement .getcore := fun _ =>
  ⟨selects_N _ 0x10#8 _ rfl, row_mem _⟩
theorem setcore (v : Word) : Statement (.setcore v) := fun _ =>
  ⟨selects_US _ 0x11#8 _ rfl _, row_mem _⟩
theorem getchip : Statement .getchip := fun _ =>
  ⟨selects_N _ 0x12#8 _ rfl, row_mem _⟩
theorem setchip (v : Word) : Statement (.setchip v) := fun _ =>
  ⟨selects_US _ 0x13#8 _ rfl _, row_mem _⟩
theorem getneuron : Statement .getneuron := fun _ =>
  ⟨selects_N _ 0x14#8 _ rfl, row_mem _⟩
theorem setneuron (v : Word) : Statement (.setneuron v) := fun _ =>
  ⟨selects_US _ 0x15#8 _ rfl _, row_mem _⟩
theorem getts : Statement .getts := fun _ =>
  ⟨selects_N _ 0x16#8 _ rfl, row_mem _⟩
theorem setts (t : Word) : Statement (.setts t) := fun _ =>
  ⟨selects_US _ 0x17#8 _ rfl _, row_mem _⟩
theorem isvalid : Statement .isvalid := fun _ =>
  ⟨selects_N _ 0x18#8 _ rfl, row_mem _⟩
theorem validate : Statement .validate := fun _ =>
  ⟨selects_N _ 0x20#8 _ rfl, row_mem _⟩
theorem invalidate : Statement .invalidate := fun _ =>
  ⟨selects_N _ 0x21#8 _ rfl, row_mem _⟩
theorem getts64 : Statement .getts64 := fun _ =>
  ⟨selects_N _ 0x30#8 _ rfl, row_mem _⟩
theorem itfa : Statement .itfa := fun _ =>
  ⟨selects_N _ 0x40#8 _ rfl, row_mem _⟩
theorem itfv : Statement .itfv := fun _ =>
  ⟨selects_N _ 0x41#8 _ rfl, row_mem _⟩
theorem itra : Statement .itra := fun _ =>
  ⟨selects_N _ 0x42#8 _ rfl, row_mem _⟩
theorem itrv : Statement .itrv := fun _ =>
  ⟨selects_N _ 0x43#8 _ rfl, row_mem _⟩
theorem itfam : Statement .itfam := fun _ =>
  ⟨selects_N _ 0x44#8 _ rfl, row_mem _⟩
theorem itfvm : Statement .itfvm := fun _ =>
  ⟨selects_N _ 0x45#8 _ rfl, row_mem _⟩
theorem itram : Statement .itram := fun _ =>
  ⟨selects_N _ 0x46#8 _ rfl, row_mem _⟩
theorem itrvm : Statement .itrvm := fun _ =>
  ⟨selects_N _ 0x47#8 _ rfl, row_mem _⟩
theorem itnext : Statement .itnext := fun _ =>
  ⟨selects_N _ 0x48#8 _ rfl, row_mem _⟩
theorem getevent (n : Word) : Statement (.getevent n) := fun _ =>
  ⟨selects_US _ 0x50#8 _ rfl _, row_mem _⟩
theorem alloc (cap : Word) : Statement (.alloc cap) := fun _ =>
  ⟨selects_US _ 0x51#8 _ rfl _, row_mem _⟩
theorem free : Statement .free := fun _ =>
  ⟨selects_N _ 0x52#8 _ rfl, row_mem _⟩
theorem view : Statement .view := fun _ =>
  ⟨selects_N _ 0x53#8 _ rfl, row_mem _⟩
theorem rdtype : Statement .rdtype := fun _ =>
  ⟨selects_N _ 0x60#8 _ rfl, row_mem _⟩
theorem rdsource : Statement .rdsource := fun _ =>
  ⟨selects_N _ 0x61#8 _ rfl, row_mem _⟩
theorem rdcap : Statement .rdcap := fun _ =>
  ⟨selects_N _ 0x62#8 _ rfl, row_mem _⟩
theorem rdevcnt : Statement .rdevcnt := fun _ =>
  ⟨selects_N _ 0x63#8 _ rfl, row_mem _⟩
theorem rdvalcnt : Statement .rdvalcnt := fun _ =>
  ⟨selects_N _ 0x64#8 _ rfl, row_mem _⟩
theorem rdovf : Statement .rdovf := fun _ =>
  ⟨selects_N _ 0x65#8 _ rfl, row_mem _⟩
theorem wrtype (v : Word) : Statement (.wrtype v) := fun h =>
  ⟨selects_H _ 0x68#8 _ rfl _ h, row_mem _⟩
theorem wrsource (v : Word) : Statement (.wrsource v) := fun h =>
  ⟨selects_H _ 0x69#8 _ rfl _ h, row_mem _⟩
theorem wrevcnt (v : Word) : Statement (.wrevcnt v) := fun _ =>
  ⟨selects_US _ 0x6B#8 _ rfl _, row_mem _⟩
theorem wrvalcnt (v : Word) : Statement (.wrvalcnt v) := fun _ =>
  ⟨selects_US _ 0x6C#8 _ rfl _, row_mem _⟩
theorem wrovf (v : Word) : Statement (.wrovf v) := fun _ =>
  ⟨selects_US _ 0x6D#8 _ rfl _, row_mem _⟩

end Sys2Proof.Laws.TableRow
end

