-- ==== Sys2Proof/Tests/Slice0.lean ====
section
/-! SUPPORT. The implementer's own tests: words written out from 30_encoding.md R56 to R61, one step on a
small state with results from 95_test_vectors.md, the well-formedness smoke test, and for each
statement with hypotheses a state and operands that meet them. -/

namespace Sys2Proof.Tests

open Sys2Proof Sys2Proof.Machine

/-! ### Helpers -/

/-- The instance of 95_test_vectors.md's conventions. -/
def inst : Params := { maxCapacity := 16, headerSize := 28, sizeBits := 32, spikeEventTag := 12 }

/-- After hardware reset, with that instance. -/
def fresh : State := { State.reset with params := inst }

/-- A packet of capacity 4 with slots `[Valid, Invalid, Valid]` counted and slot 3 never written: record 0
is `(0x003E8287, 5)` (V1), record 1 `(0x003E8286, 0x80000005)`, record 2 `(1, 0x7FFFFFFF)`. -/
def packet : State :=
  { fresh with
    pkt := true
    hdr := { type := 12, source := 7, cap := 4, evcnt := 3, valcnt := 2, ovf := 1 }
    mem := [(0, 0x87), (1, 0x82), (2, 0x3E), (4, 5), (8, 0x86), (9, 0x82), (10, 0x3E), (12, 5), (15, 0x80),
      (16, 1), (20, 0xFF), (21, 0xFF), (22, 0xFF), (23, 0x7F)] }

/-- `packet` with slot `i` selected. -/
def selecting (i : Nat) (w : Bool) : State := packet.select w i

/-- `packet` with a traversal under way. -/
def walking (rev vonly : Bool) (pos : Word) : State :=
  { packet with it := { active := true, rev := rev, vonly := vonly, mutable := true, pos := pos } }

/-- What a next state shows. -/
def seen {α : Type} (o : Result) (f : State → α) : Option α :=
  match o with
  | .next t => some (f t)
  | .fault _ => none
  | .refused _ => none

/-- The status code and the value of the last response. -/
def answer (t : State) : Option (BitVec 4 × Value) :=
  t.responses.getLast?.map fun r => (r.status.code, r.value)

/-! ### Well-formedness: the one check, of class H (R57), and a term it refuses -/

theorem test_wellFormed_refuses_wide_half :
    (Instr.wrtype 0x10000#32).wellFormed = false ∧ (Instr.wrsource 0x10000#32).wellFormed = false := by
  decide

theorem test_wellFormed_accepts_half :
    (Instr.wrtype 0xFFFF#32).wellFormed = true ∧ (Instr.wrsource 0xFFFF#32).wellFormed = true := by
  decide

/-! ### Decoding: words written out from R56, `op` over `arg` -/

theorem test_decode_codec :
    decode 0x1000000000#40 = .ok .getcore ∧ decode 0x1100000025#40 = .ok (.setcore 37) ∧
      decode 0x1200000000#40 = .ok .getchip ∧ decode 0x1300000040#40 = .ok (.setchip 64) ∧
      decode 0x1400000000#40 = .ok .getneuron ∧ decode 0x1500100001#40 = .ok (.setneuron 0x100001) ∧
      decode 0x1600000000#40 = .ok .getts ∧ decode 0x1780000000#40 = .ok (.setts 0x80000000) ∧
      decode 0x1800000000#40 = .ok .isvalid := by decide

theorem test_decode_bookkeeping_and_time :
    decode 0x2000000000#40 = .ok .validate ∧ decode 0x2100000000#40 = .ok .invalidate ∧
      decode 0x3000000000#40 = .ok .getts64 := by decide

theorem test_decode_traversal :
    decode 0x4000000000#40 = .ok .itfa ∧ decode 0x4100000000#40 = .ok .itfv ∧
      decode 0x4200000000#40 = .ok .itra ∧ decode 0x4300000000#40 = .ok .itrv ∧
      decode 0x4400000000#40 = .ok .itfam ∧ decode 0x4500000000#40 = .ok .itfvm ∧
      decode 0x4600000000#40 = .ok .itram ∧ decode 0x4700000000#40 = .ok .itrvm ∧
      decode 0x4800000000#40 = .ok .itnext := by decide

theorem test_decode_access :
    decode 0x50FFFFFFFF#40 = .ok (.getevent 0xFFFFFFFF) ∧ decode 0x5100000004#40 = .ok (.alloc 4) ∧
      decode 0x5200000000#40 = .ok .free ∧ decode 0x5300000000#40 = .ok .view := by decide

theorem test_decode_header :
    decode 0x6000000000#40 = .ok .rdtype ∧ decode 0x6100000000#40 = .ok .rdsource ∧
      decode 0x6200000000#40 = .ok .rdcap ∧ decode 0x6300000000#40 = .ok .rdevcnt ∧
      decode 0x6400000000#40 = .ok .rdvalcnt ∧ decode 0x6500000000#40 = .ok .rdovf ∧
      decode 0x680000FFFF#40 = .ok (.wrtype 0xFFFF) ∧ decode 0x6900000007#40 = .ok (.wrsource 7) ∧
      decode 0x6B00000003#40 = .ok (.wrevcnt 3) ∧ decode 0x6C00000002#40 = .ok (.wrvalcnt 2) ∧
      decode 0x6DFFFFFFFF#40 = .ok (.wrovf 0xFFFFFFFF) := by decide

/-- V10's illegal words, and R141's. -/
theorem test_decode_refuses_by_name :
    decode 0x1000000001#40 = .error (.reservedArg 0x10 1) ∧
      decode 0x0000000000#40 = .error (.reservedOp 0x00) ∧
      decode 0x6A00000004#40 = .error (.reservedOp 0x6A) ∧
      decode 0xFF00000000#40 = .error (.reservedOp 0xFF) ∧
      decode 0x6900010000#40 = .error (.reservedArg 0x69 0x10000) := by decide

theorem test_decodeTableWord :
    decodeTableWord 40 0x5100000004 = some (.alloc 4) ∧ decodeTableWord 40 0x0000000000 = none ∧
      decodeTableWord 48 0x015100000004 = none := by decide

/-! ### One command each, on small states (vectors of 95_test_vectors.md) -/

/-- V2. -/
theorem test_getcore : seen (exec .getcore (selecting 0 false)) answer = some (some (0, 3)) := by decide

theorem test_getchip : seen (exec .getchip (selecting 0 false)) answer = some (some (0, 10)) := by decide

theorem test_getneuron : seen (exec .getneuron (selecting 0 false)) answer = some (some (0, 1000)) := by
  decide

theorem test_isvalid : seen (exec .isvalid (selecting 1 false)) answer = some (some (0, 0)) := by decide

/-- V2: `GETTS -> OK -2147483643`. -/
theorem test_getts_negative :
    seen (exec .getts (selecting 1 false)) answer = some (some (0, 0xFFFFFFFF80000005)) := by decide

/-- V3. -/
theorem test_setcore_truncates :
    seen (exec (.setcore 37) (selecting 0 true)) (fun t => (t.dataOf 0, t.tsOf 0)) =
      some (0x003E828B, 5) := by decide

theorem test_setcore_readonly :
    seen (exec (.setcore 1) (selecting 0 false)) (fun t => (answer t, t.log)) =
      some (some (11, 0), []) := by decide

theorem test_setchip_truncates :
    seen (exec (.setchip 71) (selecting 0 true)) (fun t => t.dataOf 0) = some 0x003E81C7 := by decide

theorem test_setneuron_truncates :
    seen (exec (.setneuron 0x100001) (selecting 0 true)) (fun t => t.dataOf 0) = some 0x00001287 := by
  decide

/-- V4. -/
theorem test_setts_negative :
    seen (exec (.setts 0x80000000) (selecting 1 true)) (fun t => (t.tsOf 1, answer t, t.log)) =
      some (0x80000005, some (2, 0), [⟨.critical, .eInvalidArg, 0x80000000⟩]) := by decide

theorem test_setts_clears_reserved :
    seen (exec (.setts 5) (selecting 1 true)) (fun t => (t.tsOf 1, t.dataOf 1)) =
      some (5, 0x003E8286) := by decide

/-- V5. -/
theorem test_validate :
    seen (exec .validate (selecting 1 true)) (fun t => (t.dataOf 1, t.hdr.evcnt, t.hdr.valcnt)) =
      some (0x003E8287, 4, 3) := by decide

theorem test_validate_twice :
    seen (exec .validate (selecting 2 true)) (fun t => (t.hdr.evcnt, answer t, t.log)) =
      some (3, some (3, 0), [⟨.critical, .eInvariant, 2⟩]) := by decide

theorem test_invalidate :
    seen (exec .invalidate (selecting 0 true)) (fun t => (t.dataOf 0, t.hdr.evcnt, t.hdr.valcnt)) =
      some (0x003E8286, 3, 1) := by decide

theorem test_invalidate_twice :
    seen (exec .invalidate (selecting 3 true)) (fun t => (t.hdr.valcnt, answer t, t.log)) =
      some (2, some (3, 0), [⟨.critical, .eInvariant, 3⟩]) := by decide

/-- V6. -/
theorem test_getts64 :
    seen (exec .getts64 (selecting 0 false)) answer = some (some (0, 0x0000000080000005)) := by decide

theorem test_getts64_reserved :
    seen (exec .getts64 (selecting 1 false)) (fun t => (answer t, t.log)) = some (some (14, 0), []) := by
  decide

/-- R111: the eight starts, as `op[2] = mut`, `op[1] = rev`, `op[0] = vonly`. -/
theorem test_starts_forward :
    ([.itfa, .itfv, .itfam, .itfvm].map fun i =>
        seen (exec i packet) fun t => (t.it.mutable, t.it.rev, t.it.vonly, t.it.pos)) =
      [some (false, false, false, 0), some (false, false, true, 0), some (true, false, false, 0),
        some (true, false, true, 0)] := by decide

theorem test_starts_reverse :
    ([.itra, .itrv, .itram, .itrvm].map fun i =>
        seen (exec i packet) fun t => (t.it.mutable, t.it.rev, t.it.vonly, t.it.pos)) =
      [some (false, true, false, 2), some (false, true, true, 2), some (true, true, false, 2),
        some (true, true, true, 2)] := by decide

/-- R120's example: the second `ITNEXT` after `ITFV` skips slot 1. -/
theorem test_itnext_skips :
    seen (exec .itnext (walking false true 1)) (fun t => (answer t, t.it.pos, t.sel)) =
      some (some (0, 2), 3, ⟨true, true, 2⟩) := by decide

theorem test_itnext_reverse_end :
    seen (exec .itnext (walking true false 0xFFFFFFFF)) (fun t => (answer t, t.it.active, t.sel.present)) =
      some (some (6, 0), false, false) := by decide

/-- V8 and S7. -/
theorem test_getevent_last :
    seen (exec (.getevent 3) packet) (fun t => (answer t, t.sel)) =
      some (some (0, 3), ⟨true, true, 3⟩) := by decide

theorem test_getevent_beyond :
    seen (exec (.getevent 4) (selecting 0 true)) (fun t => (answer t, t.sel.present, t.log)) =
      some (some (1, 0), false, [⟨.critical, .eBounds, 4⟩]) := by decide

theorem test_alloc :
    seen (exec (.alloc 4) { fresh with mem := packet.mem, sel := ⟨true, true, 9⟩ }) (fun t =>
      (answer t, t.hdr, t.mem.isEmpty && !t.sel.present)) =
      some (some (0, 60), ⟨12, 0, 4, 0, 0, 0⟩, true) := by decide

theorem test_alloc_too_large :
    seen (exec (.alloc 5) { fresh with params := { inst with sizeBits := 6 } }) (fun t =>
      (answer t, t.pkt, t.log)) =
      some (some (4, 0), false, [⟨.critical, .eAllocFail, 5⟩]) := by decide

theorem test_free :
    seen (exec .free (selecting 0 true)) (fun t => (answer t, t.pkt, t.sel.present)) =
      some (some (0, 0), false, false) := by decide

theorem test_view_mismatch :
    seen (exec .view { packet with hdr := { packet.hdr with type := 0 } }) answer =
      some (some (5, 0)) := by decide

/-- R134 to R139. -/
theorem test_header_reads :
    ([.rdtype, .rdsource, .rdcap, .rdevcnt, .rdvalcnt, .rdovf].map fun i => seen (exec i packet) answer) =
      [some (some (0, 12)), some (some (0, 7)), some (some (0, 4)), some (some (0, 3)),
        some (some (0, 2)), some (some (0, 1))] := by decide

/-- V9. -/
theorem test_wrtype :
    seen (exec (.wrtype 0xFFFF) packet) (fun t => t.hdr) = some ⟨0xFFFF, 7, 4, 3, 2, 1⟩ := by decide

theorem test_wrsource :
    seen (exec (.wrsource 0xFFFF) packet) (fun t => t.hdr) = some ⟨12, 0xFFFF, 4, 3, 2, 1⟩ := by decide

theorem test_wrevcnt_limits :
    ([1, 2, 4, 5].map fun v => seen (exec (.wrevcnt v) packet) fun t => (answer t, t.hdr.evcnt)) =
      [some (some (13, 0), 3), some (some (0, 0), 2), some (some (0, 0), 4), some (some (13, 0), 3)] := by
  decide

theorem test_wrvalcnt_limits :
    ([3, 4].map fun v => seen (exec (.wrvalcnt v) packet) fun t => (answer t, t.hdr.valcnt)) =
      [some (some (0, 0), 3), some (some (13, 0), 2)] := by decide

theorem test_wrovf :
    seen (exec (.wrovf 0xFFFFFFFF) packet) (fun t => t.hdr) = some ⟨12, 7, 4, 3, 2, 0xFFFFFFFF⟩ := by
  decide

/-! ### Steps -/

/-- A step runs the word the host presents; from reset with no packet it answers `X_NO_PACKET` (V10). -/
theorem test_step_runs_word :
    seen (step (fresh.withFetchWord 40 0x1000000000)) (fun t => (answer t, t.inbox)) =
      some (some (9, 0), []) := by decide

/-- An illegal word is illegal even then (V10). -/
theorem test_step_illegal_word :
    seen (step (fresh.withFetchWord 40 0x6A00000004)) answer = some (some (8, 0)) := by decide

/-- V11: the image port at the last byte and one beyond. -/
theorem test_image_write_last :
    seen (step { packet with inbox := [.image (.write 31 0xFF)] }) (fun t =>
      (t.replies, t.tsOf 3, t.hdr)) = some ([.written], 0xFF000000, packet.hdr) := by decide

theorem test_image_read_beyond :
    seen (step { packet with inbox := [.image (.read 32)] }) (fun t => t.replies) =
      some [.imgRange] := by decide

/-! ### The hypotheses of the statements are met

The states are good ones: `good_packet`, `good_fresh`. -/

theorem good_packet : packet.Inv :=
  ⟨by decide, by decide, by decide, by decide, by decide, by decide⟩

theorem good_fresh : fresh.Inv :=
  ⟨by decide, by decide, by decide, by decide, by decide, by decide⟩

theorem good_walking : (walking true true 2).Inv :=
  ⟨by decide, by decide, by decide, by decide, by decide, by decide⟩

theorem good_walking_forward : (walking false true 0).Inv :=
  ⟨by decide, by decide, by decide, by decide, by decide, by decide⟩

theorem witness_DecodeAfterEncode : (Instr.wrsource 7).wellFormed = true := by decide

theorem witness_EncodeAfterDecode : decode 0x6900000007#40 = .ok (.wrsource 7) := by decide

theorem witness_CommandWordsTotal :
    ({ fresh with inbox := [.command 0x6A00000004#40] } : State).inbox = .command 0x6A00000004#40 :: [] ∧
      (∀ r ∈ opcodeTable, r.selects 0x6A00000004#40 = false) ∧
      reservedOp ((0x6A00000004#40 : CmdWord).extractLsb' 32 8) = true := by decide

theorem witness_StepRunsDecodedCommand :
    ({ fresh with inbox := [.command 0x5100000004#40] } : State).inbox = .command 0x5100000004#40 :: [] ∧
      decode 0x5100000004#40 = .ok (.alloc 4) ∧
      ({ fresh with inbox := [.together 0x5100000004#40 (.read 0)] } : State).inbox =
        .together 0x5100000004#40 (.read 0) :: [] ∧ fresh.inbox = [] := by decide

theorem witness_PortOrderEither :
    ({ fresh with inbox := [.together 0x5100000004#40 (.read 0)] } : State).inbox =
      .together 0x5100000004#40 (.read 0) :: [] := by decide

theorem witness_StepKeepsInvariant :
    ({ packet with inbox := [.command 0x5000000003#40] } : State).Inv ∧
      ∃ t, step { packet with inbox := [.command 0x5000000003#40] } = .next t :=
  ⟨⟨by decide, by decide, by decide, by decide, by decide, by decide⟩, ⟨_, rfl⟩⟩

theorem witness_StepAlwaysContinues : packet.Inv := good_packet

/-- Two good states that differ in what is unobservable: a header register with no packet, an unlisted
byte beyond the region, the index of an absent reference. -/
theorem witness_UnspecifiedStateUnobservable :
    fresh.Inv ∧
      ({ fresh with hdr := { fresh.hdr with ovf := 9 }, mem := [(3, 1)], sel := ⟨false, true, 5⟩ } : State).Inv ∧
      fresh.ObsEq
        { fresh with hdr := { fresh.hdr with ovf := 9 }, mem := [(3, 1)], sel := ⟨false, true, 5⟩ } := by
  refine ⟨good_fresh, ⟨by decide, by decide, by decide, by decide, by decide, by decide⟩, ?_⟩
  constructor <;> first | rfl | (intro h; exact absurd h (by decide))

theorem witness_ResetLeavesNoPacket :
    ({ packet with inbox := [.reset] } : State).inbox = .reset :: [] ∧ fresh.pkt = false ∧
      Instr.free.wellFormed = true ∧ ∀ c, Instr.free ≠ .alloc c :=
  ⟨rfl, rfl, rfl, fun _ h => nomatch h⟩

theorem witness_GatesStopInOrder :
    (Instr.wrtype 0x10000#32).wellFormed = false ∧ Instr.getcore.wellFormed = true ∧
      gateStatus (gateOf .getcore) packet = some .xNullRef ∧
      gateStatus (gateOf (.setts 0)) (selecting 0 false) = some .xReadonlyRef ∧
      gateStatus (gateOf (.alloc 0)) packet = some .xAlreadyAllocated ∧
      (packet.pkt = true ∧
        ({ packet with hdr := { packet.hdr with type := 0 } } : State).hdr.type ≠ inst.spikeEventTag) := by
  decide

theorem witness_OneResponseAndItsReport :
    ∃ t, exec (.getevent 4) packet = .next t ∧
      t.responses = packet.responses ++ [{ status := .eBounds, value := 0 }] := ⟨_, rfl, rfl⟩

theorem witness_NonOkChangesNothing :
    ∃ t, exec .itnext (walking true true 0xFFFFFFFF) = .next t ∧
      t.responses = (walking true true 0xFFFFFFFF).responses ++ [{ status := .nEnd, value := 0 }] :=
  ⟨_, rfl, rfl⟩

theorem witness_ReadPathsChangeNothing : ∃ t, exec .rdcap packet = .next t := ⟨_, rfl⟩

theorem witness_HeaderRegisterWriters :
    ∃ t, exec (.wrevcnt 4) packet = .next t ∧ t.hdr.evcnt ≠ packet.hdr.evcnt := ⟨_, rfl, by decide⟩

theorem witness_HeaderRegisterWriters_alloc :
    ∃ t, exec (.alloc 4) fresh = .next t ∧ t.hdr.type ≠ fresh.hdr.type ∧ t.hdr.cap ≠ fresh.hdr.cap :=
  ⟨_, rfl, by decide, by decide⟩

theorem witness_InterfaceAndRecordWriters :
    ∃ t, exec .free (selecting 0 true) = .next t ∧ t.pkt ≠ packet.pkt ∧
      t.sel ≠ (selecting 0 true).sel := ⟨_, rfl, by decide, by decide⟩

theorem witness_InterfaceAndRecordWriters_mem :
    ∃ t, exec .invalidate (selecting 0 true) = .next t ∧ t.mem ≠ (selecting 0 true).mem :=
  ⟨_, rfl, by decide⟩

theorem witness_CapacityFixedWhilePacketLives :
    ∃ t, step { packet with inbox := [.image (.read 0)] } = .next t ∧ packet.pkt = true ∧ t.pkt = true :=
  ⟨_, rfl, rfl, rfl⟩

theorem witness_HistoriesOnlyGrow : ∃ t, step { packet with inbox := [.image (.read 0)] } = .next t :=
  ⟨_, rfl⟩

/-- FieldReads and TimestampRead, at the last slot of the packet. -/
theorem witness_reads :
    gateStatus .R (selecting 3 false) = none ∧ (selecting 3 false).curInPacket :=
  ⟨by decide, by show (selecting 3 false).cur < toU32 (selecting 3 false).hdr.cap; decide⟩

theorem witness_reads_stopped : gateStatus .R packet = some .xNullRef := by decide

/-- FieldWrites, TimestampWrite and FieldRoundTrip, at the largest operand. -/
theorem witness_writes :
    gateStatus .W (selecting 3 true) = none ∧ (selecting 3 true).cur < toU32 (selecting 3 true).hdr.cap ∧
      (selecting 3 true).mem.wf = true ∧ 0 ≤ (0x7FFFFFFF#32 : Word).toInt := by decide

theorem witness_writes_stopped : gateStatus .W (selecting 0 false) = some .xReadonlyRef := by decide

theorem witness_TimestampWrite_negative :
    gateStatus .W (selecting 3 true) = none ∧ (0x80000000#32 : Word).toInt < 0 := by decide

theorem witness_FieldRoundTrip :
    (31#32 : Word).toNat ≤ 31 ∧ (63#32 : Word).toNat ≤ 63 ∧ (0xFFFFF#32 : Word).toNat ≤ 2 ^ 20 - 1 := by
  decide

theorem witness_Timestamp64Read :
    gateStatus .R (selecting 1 false) = none ∧ (selecting 1 false).cur < toU32 packet.hdr.cap ∧
      ((selecting 1 false).tsOf 1).getLsbD 31 = true ∧
      gateStatus .R (selecting 2 false) = none ∧ ((selecting 2 false).tsOf 2).getLsbD 31 = false := by
  decide

theorem witness_Timestamp64LosslessMonotonic :
    (0x7FFFFFFF#32 : Word).getLsbD 31 = false ∧ (0#32 : Word).getLsbD 31 = false ∧
      (1#32 : Word).toNat < (2#32 : Word).toNat := by decide

theorem witness_ValidateEffect :
    gateStatus .W (selecting 1 true) = none ∧ (selecting 1 true).cur < toU32 packet.hdr.cap ∧
      (selecting 1 true).mem.wf = true ∧ ((selecting 1 true).dataOf 1).getLsbD 0 = false ∧
      packet.hdr.evcnt.toNat < packet.hdr.cap.toNat ∧
      ((selecting 0 true).dataOf 0).getLsbD 0 = true := by decide

theorem witness_ValidateEffect_limit :
    gateStatus .W ((selecting 1 true).setHdr { packet.hdr with evcnt := 4 }) = none ∧
      (packet.hdr.cap.toNat ≤ (4#32 : Word).toNat) := by decide

theorem witness_InvalidateEffect :
    gateStatus .W (selecting 0 true) = none ∧ ((selecting 0 true).dataOf 0).getLsbD 0 = true ∧
      packet.hdr.valcnt ≠ 0 ∧ ((selecting 3 true).dataOf 3).getLsbD 0 = false ∧
      gateStatus .W ((selecting 0 true).setHdr { packet.hdr with valcnt := 0 }) = none := by decide

theorem witness_AccountingOverDistinctSlots :
    fresh.params.wf = true ∧ fresh.mem.wf = true ∧ fresh.pkt = false ∧
      (0 ≤ toS32 4 ∧ toS32 4 ≤ (inst.maxCapacity : Int) ∧
        (inst.headerSize : Int) + 8 * toS32 4 ≤ 2 ^ inst.sizeBits - 1) ∧
      [0, 1, 3].Nodup ∧ (∀ k ∈ [0, 1, 3], k < (4#32 : Word).toNat) ∧ [1].Nodup ∧
      (∀ j ∈ [1], j ∈ [0, 1, 3]) := by decide

theorem witness_ValidCountAgreesWithMarks :
    (selecting 0 true).Inv ∧
      toU32 (selecting 0 true).hdr.valcnt =
        ((List.range (toU32 (selecting 0 true).hdr.cap)).countP fun i =>
          isValid ((selecting 0 true).dataOf i)) ∧
      (∀ v, Instr.invalidate ≠ .wrvalcnt v) ∧ ∃ t, exec .invalidate (selecting 0 true) = .next t :=
  ⟨⟨by decide, by decide, by decide, by decide, by decide, by decide⟩, by decide,
    fun _ h => (nomatch h), ⟨_, rfl⟩⟩

theorem witness_MarksChangeOnlyByBookkeeping :
    (selecting 0 true).mem.wf = true ∧ (selecting 0 true).pkt = true ∧
      ∃ t, exec .invalidate (selecting 0 true) = .next t ∧
        isValid (t.dataOf 0) ≠ isValid ((selecting 0 true).dataOf 0) :=
  ⟨by decide, rfl, _, rfl, by decide⟩

theorem witness_TraversalStarts :
    gateStatus .P packet = none ∧ gateStatus .P fresh = some .xNoPacket := by decide

/-- NextPairRounds: the skip at slot 1, the pair at slot 2, the two ends. -/
theorem witness_NextPairRounds :
    gateStatus .P (walking false true 1) = none ∧ (walking false true 1).it.pos.toInt = (1 : Nat) ∧
      (walking false true 1).it.rev = false ∧ 1 < packet.hdr.evcnt.toNat ∧
      packet.hdr.evcnt.toNat ≤ 2 ^ 31 - 1 ∧ 1 < packet.hdr.cap.toNat ∧
      ((walking false true 1).dataOf 1).getLsbD 0 = false ∧
      ((walking true true 2).dataOf 2).getLsbD 0 = true ∧
      (packet.hdr.evcnt.toNat : Int) ≤ (walking false true 3).it.pos.toInt ∧
      (walking true true 0xFFFFFFFF).it.pos.toInt < 0 ∧ packet.it.active = false := by decide

/-- NextPairRounds: the bounds check, in a state no run reaches. -/
theorem witness_NextPairRounds_bounds :
    gateStatus .P (walking true false 4) = none ∧ (walking true false 4).it.pos.toInt = (4 : Nat) ∧
      packet.hdr.cap.toNat ≤ 4 := by decide

theorem witness_NextPairIsNearest :
    gateStatus .P (walking true true 2) = none ∧ ((2 : Nat) : Int) ≤ (walking true true 2).it.pos.toInt ∧
      (walking true true 2).visits true 2 = true ∧ gateStatus .P (walking false true 0) = none ∧
      (walking false true 0).it.pos.toInt ≤ (0 : Nat) ∧ 0 < packet.hdr.evcnt.toNat ∧
      (walking false true 0).visits true 0 = true := by decide

theorem witness_TraversalProducesSequence :
    packet.Inv ∧ gateStatus .P packet = none ∧ packet.traversalIndices false true = [0, 2] ∧
      packet.traversalIndices true true = [2, 0] := ⟨good_packet, by decide, by decide, by decide⟩

theorem witness_GeteventSelects :
    gateStatus .P packet = none ∧ 0 ≤ (3#32 : Word).toInt ∧ (3#32 : Word).toInt < packet.hdr.cap.toNat ∧
      (packet.hdr.cap.toNat : Int) ≤ (4#32 : Word).toInt ∧ (0xFFFFFFFF#32 : Word).toInt < 0 := by decide

/-- AllocCreates: the largest capacity that fits the example instance (V8), and one beyond. -/
theorem witness_AllocCreates :
    fresh.pkt = false ∧ packet.pkt = true ∧ fresh.params.wf = true ∧
      (0 ≤ toS32 16 ∧ toS32 16 ≤ (inst.maxCapacity : Int) ∧
        (inst.headerSize : Int) + 8 * toS32 16 ≤ 2 ^ inst.sizeBits - 1) ∧
      ¬ (toS32 17 ≤ (inst.maxCapacity : Int)) := by decide

theorem witness_pkt_and_tag :
    packet.pkt = true ∧ fresh.pkt = false ∧ packet.hdr.type = packet.params.spikeEventTag ∧
      ({ packet with hdr := { packet.hdr with type := 0 } } : State).hdr.type ≠ inst.spikeEventTag := by
  decide

theorem witness_TagAndSourceWrites :
    (0xFFFF#32 : Word).extractLsb' 16 16 = 0 ∧ (0x10000#32 : Word).extractLsb' 16 16 ≠ 0 := by decide

theorem witness_CounterWrites :
    packet.pkt = true ∧ packet.hdr.valcnt.toNat ≤ (2#32 : Word).toNat ∧
      (4#32 : Word).toNat ≤ packet.hdr.cap.toNat ∧ (1#32 : Word).toNat < packet.hdr.valcnt.toNat ∧
      packet.hdr.cap.toNat < (5#32 : Word).toNat ∧ (3#32 : Word).toNat ≤ packet.hdr.evcnt.toNat ∧
      packet.hdr.evcnt.toNat < (4#32 : Word).toNat := by decide

theorem witness_ImageReadReplies :
    ({ packet with inbox := [.image (.read 31)] } : State).inbox = .image (.read 31) :: [] ∧
      packet.pkt = true ∧ 31 < 8 * packet.hdr.cap.toNat ∧ 8 * packet.hdr.cap.toNat ≤ 32 ∧
      fresh.pkt = false := by decide

theorem witness_ImageWriteStoresOneByte :
    ({ packet with inbox := [.image (.write 31 1)] } : State).inbox = .image (.write 31 1) :: [] ∧
      packet.mem.wf = true ∧ 31 < 8 * packet.hdr.cap.toNat ∧ 8 * packet.hdr.cap.toNat ≤ 32 := by decide

end Sys2Proof.Tests
end

section
/-! PROOF. Every step keeps the invariant. First one rule per update of the state, then one per shared
operation (the gates, a read-modify-write, the start of a traversal, the loop of `ITNEXT`), then one per
command; the step is assembled from these. -/

namespace Sys2Proof.Machine

/-! ### Words one step up and down -/

theorem toS32_eq_toU32 {w : Word} (h : toU32 w < 2 ^ 31) : toS32 w = (toU32 w : Int) :=
  BitVec.toInt_eq_toNat_of_lt (by unfold toU32 at h; omega)

theorem toS32_add_one {w : Word} (h : toS32 w + 1 < 2 ^ 31) : toS32 (w + 1) = toS32 w + 1 := by
  have hlo : -2 ^ 31 ≤ toS32 w := BitVec.le_toInt w
  have hsum : toS32 (w + 1) = (toS32 w + 1).bmod (2 ^ 32) := BitVec.toInt_add w 1
  rw [hsum, Int.bmod_eq_of_le (by omega) (by omega)]

theorem toU32_add_one {w : Word} (h : toU32 w + 1 < 2 ^ 32) : toU32 (w + 1) = toU32 w + 1 :=
  (BitVec.toNat_add w 1).trans (Nat.mod_eq_of_lt h)

theorem toU32_sub_one {w : Word} (h : toU32 w ≠ 0) : toU32 (w - 1) = toU32 w - 1 :=
  BitVec.toNat_sub_of_le (y := 1) (Nat.pos_of_ne_zero h)

theorem toS32_sub_one {w : Word} (h : -2 ^ 31 ≤ toS32 w - 1) : toS32 (w - 1) = toS32 w - 1 := by
  have hhi : toS32 w < 2 ^ 31 := BitVec.toInt_lt
  have hdiff : toS32 (w - 1) = (toS32 w - 1).bmod (2 ^ 32) := BitVec.toInt_sub
  rw [hdiff, Int.bmod_eq_of_le (by omega) (by omega)]

/-! ### The positions of a traversal -/

/-- The range the invariant gives the position of an active traversal: a slot of a packet of `cap` slots, or
one step past its end (10_state.md R22, 43_traversal.md R120). -/
def StandsIn (rev : Bool) (pos : Word) (cap : Nat) : Prop :=
  if rev then -1 ≤ toS32 pos ∧ toS32 pos < (cap : Int) else 0 ≤ toS32 pos ∧ toS32 pos ≤ (cap : Int)

theorem standsIn_reverse {pos : Word} {cap : Nat} :
    StandsIn true pos cap ↔ -1 ≤ toS32 pos ∧ toS32 pos < (cap : Int) := Iff.rfl

theorem standsIn_forward {pos : Word} {cap : Nat} :
    StandsIn false pos cap ↔ 0 ≤ toS32 pos ∧ toS32 pos ≤ (cap : Int) := Iff.rfl

/-- A traversal starts at slot 0, or at the last slot counted (43_traversal.md R111). -/
theorem standsIn_start (rev : Bool) {evcnt : Word} {cap : Nat} (hevcnt : toU32 evcnt ≤ cap)
    (hcap : cap < 2 ^ 31) : StandsIn rev (if rev then evcnt - 1 else 0) cap := by
  cases rev with
  | false => exact standsIn_forward.2 ⟨le_refl _, Int.natCast_nonneg _⟩
  | true =>
    have hsigned := toS32_eq_toU32 (w := evcnt) (by omega)
    have hdown := toS32_sub_one (w := evcnt) (by omega)
    exact standsIn_reverse.2 (by simp only [if_true]; omega)

/-- From a slot of the packet one step leads to the next slot or just past the end (43_traversal.md R120). -/
theorem standsIn_advance (rev : Bool) {pos : Word} {p cap : Nat} (hpos : toS32 pos = (p : Int))
    (hlt : p < cap) (hcap : cap < 2 ^ 31) : StandsIn rev (if rev then pos - 1 else pos + 1) cap := by
  cases rev with
  | false =>
    have hup := toS32_add_one (w := pos) (by omega)
    exact standsIn_forward.2 (by simp only [Bool.false_eq_true, if_false]; omega)
  | true =>
    have hdown := toS32_sub_one (w := pos) (by omega)
    exact standsIn_reverse.2 (by simp only [if_true]; omega)

namespace State.Inv

variable {s : State} (hs : s.Inv)

/-! ### What the invariant says of a packet -/

include hs

/-- A slot of the packet is one of the block's `MAX_CAPACITY` slots. -/
theorem cap_le_maxCapacity (hp : s.pkt = true) : toU32 s.hdr.cap ≤ s.params.maxCapacity := by
  obtain ⟨-, -, hcap⟩ := hs.books hp
  exact hcap

/-- The counters' order, invariant I2 without the bound on the capacity (10_state.md R24). -/
theorem counters_le (hp : s.pkt = true) :
    toU32 s.hdr.valcnt ≤ toU32 s.hdr.evcnt ∧ toU32 s.hdr.evcnt ≤ toU32 s.hdr.cap := by
  obtain ⟨hval, hevcnt, -⟩ := hs.books hp
  exact ⟨hval, hevcnt⟩

/-- A capacity is not negative as a signed word (00_scope.md R6). -/
theorem cap_lt (hp : s.pkt = true) : toU32 s.hdr.cap < 2 ^ 31 := by
  have hcap := hs.cap_le_maxCapacity hp
  have hparams := hs.params_wf
  simp only [Params.wf, Bool.and_eq_true, decide_eq_true_eq] at hparams
  omega

/-! ### One rule per update of the state -/

/-- The invariant is about the parameters and the block's own state, not about the inbox, the choices drawn
or the histories of the outputs. -/
theorem of_block_eq {t : State} (hparams : t.params = s.params) (hpkt : t.pkt = s.pkt)
    (hhdr : t.hdr = s.hdr) (hmem : t.mem = s.mem) (hsel : t.sel = s.sel) (hit : t.it = s.it) : t.Inv := by
  obtain ⟨hwf, hbooks, href, htraversal, hmemWf, hbound⟩ := hs
  constructor <;> simpa only [State.cur, hparams, hpkt, hhdr, hmem, hsel, hit]

theorem respond (v : Value) : (s.respond v).Inv := hs.of_block_eq rfl rfl rfl rfl rfl rfl

theorem raise (c : Status) (info : Word) : (s.raise c info).Inv := hs.of_block_eq rfl rfl rfl rfl rfl rfl

theorem reply (r : ImageReply) : (s.reply r).Inv := hs.of_block_eq rfl rfl rfl rfl rfl rfl

theorem take (rest : List Presented) : (s.take rest).Inv := hs.of_block_eq rfl rfl rfl rfl rfl rfl

theorem draw : s.draw.Inv := hs.of_block_eq rfl rfl rfl rfl rfl rfl

/-- A write of `SEL`. -/
theorem with_sel (r : RecordRef)
    (hr : r.present = true → s.pkt = true ∧ r.idx.toNat < toU32 s.hdr.cap) :
    ({ s with sel := r } : State).Inv :=
  { hs with ref := hr }

/-- A write of `IT`. -/
theorem with_it (it : Traversal)
    (hit : it.active = true → s.pkt = true ∧ StandsIn it.rev it.pos (toU32 s.hdr.cap)) :
    ({ s with it := it } : State).Inv :=
  { hs with traversal := hit }

/-- A write of the header that keeps `HDR.CAP` and the order of the counters. -/
theorem setHdr {h : Header} (hcap : h.cap = s.hdr.cap)
    (hbooks : s.pkt = true → toU32 h.valcnt ≤ toU32 h.evcnt ∧ toU32 h.evcnt ≤ toU32 s.hdr.cap) :
    (s.setHdr h).Inv where
  params_wf := hs.params_wf
  books hp := by
    rw [setHdr_hdr, hcap]
    obtain ⟨hval, hevcnt⟩ := hbooks hp
    exact ⟨hval, hevcnt, hs.cap_le_maxCapacity hp⟩
  ref hpresent := by
    rw [setHdr_hdr, hcap]
    exact hs.ref hpresent
  traversal hactive := by
    rw [setHdr_hdr, hcap]
    exact hs.traversal hactive
  mem_wf := hs.mem_wf
  mem_bound := hs.mem_bound

/-- A write of the memory. -/
theorem with_mem (m : Memory) (hwf : m.wf = true) (hbound : ∀ c ∈ m, c.1 < 8 * s.params.maxCapacity) :
    ({ s with mem := m } : State).Inv :=
  { hs with mem_wf := hwf, mem_bound := hbound }

/-! ### The updates the commands make -/

theorem select (w : Bool) {n : Nat} (hp : s.pkt = true) (hn : n < toU32 s.hdr.cap) :
    (s.select w n).Inv := by
  refine hs.with_sel _ fun _ => ⟨hp, ?_⟩
  have hcap := hs.cap_lt hp
  rwa [BitVec.toNat_ofNat, Nat.mod_eq_of_lt (by omega)]

theorem dropRef : s.dropRef.Inv := hs.with_sel _ nofun

/-- An ended traversal may stand anywhere. -/
theorem endTraversal_atPos (pos : Word) : (s.atPos pos).endTraversal.Inv := hs.with_it _ nofun

/-- Handing out slot `p` of the packet moves the position one step, which stays in its range. -/
theorem advance_atPos {pos : Word} {p : Nat} (hp : s.pkt = true) (hpos : toS32 pos = (p : Int))
    (hlt : p < toU32 s.hdr.cap) : (s.atPos pos).advance.Inv :=
  hs.with_it _ fun _ => ⟨hp, standsIn_advance s.it.rev hpos hlt (hs.cap_lt hp)⟩

theorem writeWord {a : Nat} (w : Word) (ha : a + 4 ≤ 8 * s.params.maxCapacity) :
    ({ s with mem := s.mem.writeWord a w } : State).Inv := by
  refine hs.with_mem _ (Memory.writeWord_wf _ _ _ hs.mem_wf) fun c hc => ?_
  rcases Memory.mem_writeWord _ _ _ _ hc with ⟨-, hlt⟩ | hc
  · omega
  · exact hs.mem_bound c hc

/-- A write of the field word of a slot of the packet. -/
theorem writeWord_dataAddr {i : Nat} (w : Word) (hp : s.pkt = true) (hi : i < toU32 s.hdr.cap) :
    ({ s with mem := s.mem.writeWord (dataAddr i) w } : State).Inv := by
  have hcap := hs.cap_le_maxCapacity hp
  exact hs.writeWord w (by unfold dataAddr; omega)

/-- A write of the timestamp word of a slot of the packet. -/
theorem writeWord_tsAddr {i : Nat} (w : Word) (hp : s.pkt = true) (hi : i < toU32 s.hdr.cap) :
    ({ s with mem := s.mem.writeWord (tsAddr i) w } : State).Inv := by
  have hcap := hs.cap_le_maxCapacity hp
  exact hs.writeWord w (by unfold tsAddr; omega)

theorem writeByte {r : Nat} (b : Byte) (hr : r < 8 * s.params.maxCapacity) : (s.writeByte r b).Inv := by
  refine hs.with_mem _ (Memory.write_wf _ _ _ hs.mem_wf) fun c hc => ?_
  rcases Memory.mem_write _ _ _ _ hc with heq | hc
  · omega
  · exact hs.mem_bound c hc

/-- `VALIDATE` counts one more record only while there is room for it (41_validity_bookkeeping.md R91). -/
theorem countIn (hroom : toU32 s.hdr.evcnt < toU32 s.hdr.cap) : s.countIn.Inv := by
  refine hs.setHdr rfl fun hp => ?_
  obtain ⟨hval, -⟩ := hs.counters_le hp
  have hcap := hs.cap_lt hp
  rw [toU32_add_one (by omega), toU32_add_one (by omega)]
  omega

/-- `INVALIDATE` takes one record off a count that is not 0 (41_validity_bookkeeping.md R92). -/
theorem countOut (hsome : toU32 s.hdr.valcnt ≠ 0) : s.countOut.Inv := by
  refine hs.setHdr rfl fun hp => ?_
  obtain ⟨hval, hevcnt⟩ := hs.counters_le hp
  rw [toU32_sub_one hsome]
  exact ⟨(Nat.sub_le _ _).trans hval, hevcnt⟩

theorem create {cap : Word} (hcap : toU32 cap ≤ s.params.maxCapacity) : (s.create cap).Inv where
  params_wf := hs.params_wf
  books _ := ⟨le_refl _, Nat.zero_le _, hcap⟩
  ref := nofun
  traversal := nofun
  mem_wf := Memory.clearBelow_wf _ _ hs.mem_wf
  mem_bound c hc := hs.mem_bound c (Memory.mem_clearBelow _ _ _ hc)

theorem release : s.release.Inv :=
  { hs with books := nofun, ref := nofun, traversal := nofun }

theorem hardReset : s.hardReset.Inv where
  params_wf := hs.params_wf
  books := nofun
  ref := nofun
  traversal := nofun
  mem_wf := rfl
  mem_bound := nofun

end State.Inv

/-! ### Outcomes -/

/-- The outcome goes on, if it does, to a state that meets the invariant. -/
def EndsGood (o : Result) : Prop := ∀ t, o = .next t → t.Inv

theorem endsGood_next {t : State} : EndsGood (.next t) ↔ t.Inv :=
  ⟨fun h => h t rfl, fun h _ heq => Host.Outcome.next.inj heq ▸ h⟩

section Operations

variable {s : State} (hs : s.Inv)

include hs

theorem endsGood_respond (v : Value) : EndsGood (.next (s.respond v)) := endsGood_next.2 (hs.respond v)

theorem endsGood_raise (c : Status) (info : Word) : EndsGood (.next (s.raise c info)) :=
  endsGood_next.2 (hs.raise c info)

theorem endsGood_refuse (c : Status) : EndsGood (refuse s c) := endsGood_raise hs c 0

/-! #### The gates: a command that a gate stops changes nothing the invariant is about -/

theorem endsGood_gateHalf {arg : Word} {k : Result} (hk : EndsGood k) : EndsGood (gateHalf arg s k) := by
  intro t ht
  rcases gateHalf_cases ht with ⟨-, rfl⟩ | ⟨-, ht⟩
  · exact hs.raise _ _
  · exact hk t ht

theorem endsGood_gateH {k : Result} (hk : s.pkt = true → EndsGood k) : EndsGood (gateH s k) := by
  intro t ht
  rcases gateH_cases ht with ⟨-, rfl⟩ | ⟨hp, ht⟩
  · exact hs.raise _ _
  · exact hk hp t ht

theorem endsGood_gateA {k : Result} (hk : EndsGood k) : EndsGood (gateA s k) := by
  intro t ht
  rcases gateA_cases ht with ⟨-, rfl⟩ | ⟨-, ht⟩
  · exact hs.raise _ _
  · exact hk t ht

theorem endsGood_gateP {k : Result} (hk : s.pkt = true → EndsGood k) : EndsGood (gateP s k) := by
  intro t ht
  rcases gateP_cases ht with ⟨c, -, rfl⟩ | ⟨hp, -, ht⟩
  · exact hs.raise _ _
  · exact hk hp t ht

theorem endsGood_gateR {k : Result} (hk : EndsGood k) : EndsGood (gateR s k) := by
  intro t ht
  rcases gateR_cases ht with ⟨c, -, rfl⟩ | ⟨-, -, -, ht⟩
  · exact hs.raise _ _
  · exact hk t ht

theorem endsGood_gateW {k : Result} (hk : s.pkt = true → EndsGood k) : EndsGood (gateW s k) := by
  intro t ht
  rcases gateW_cases ht with ⟨c, -, rfl⟩ | ⟨hp, -, -, -, ht⟩
  · exact hs.raise _ _
  · exact hk hp t ht

/-! #### The shared operations -/

omit hs in
theorem endsGood_orFault {α : Type} {x : Except Fault α} {k : α → Result}
    (hk : ∀ a, x = .ok a → EndsGood (k a)) :
    EndsGood (orFault x k) := by
  intro t ht
  obtain ⟨a, ha, ht⟩ := (orFault_eq_next_iff x k t).1 ht
  exact hk a ha t ht

/-- A header write that keeps `HDR.CAP` and the order of the counters, and completes. -/
theorem endsGood_setHdr {h : Header} (hcap : h.cap = s.hdr.cap)
    (hbooks : s.pkt = true → toU32 h.valcnt ≤ toU32 h.evcnt ∧ toU32 h.evcnt ≤ toU32 s.hdr.cap) :
    EndsGood (.next ((s.setHdr h).respond 0)) :=
  endsGood_respond (hs.setHdr hcap hbooks) 0

/-- A read-modify-write of the selected field word, followed by a change `k` that keeps the invariant. -/
theorem endsGood_modifyData (f : Word → Word) (k : State → State) (hp : s.pkt = true)
    (hk : ∀ m, ({ s with mem := m } : State).Inv → (k { s with mem := m }).Inv) :
    EndsGood (modifyData s f k) := by
  intro t ht
  obtain ⟨hcur, rfl⟩ := modifyData_cases ht
  exact (hk _ (hs.writeWord_dataAddr _ hp hcur)).respond 0

theorem endsGood_getFromData (f : Word → Value) : EndsGood (getFromData s f) :=
  endsGood_gateR hs (endsGood_orFault fun d _ => endsGood_respond hs (f d))

theorem endsGood_setInData (f : Word → Word) : EndsGood (setInData s f) :=
  endsGood_gateW hs fun hp => endsGood_modifyData hs f id hp fun _ hm => hm

theorem endsGood_readHeader (v : Value) : EndsGood (readHeader s v) :=
  endsGood_gateH hs fun _ => endsGood_respond hs v

theorem endsGood_startTraversal (mutable rev vonly : Bool) :
    EndsGood (startTraversal mutable rev vonly s) := by
  refine endsGood_gateP hs fun hp => ?_
  obtain ⟨-, hevcnt⟩ := hs.counters_le hp
  exact endsGood_respond (hs.with_it _ fun _ => ⟨hp, standsIn_start rev hevcnt (hs.cap_lt hp)⟩) 0

/-- The loop of `ITNEXT` ends the traversal, or hands out a slot of the packet and goes one step past it. -/
theorem endsGood_scan (n : Nat) (hp : s.pkt = true) : EndsGood (scan n s) := by
  intro t ht
  obtain ⟨pos, rfl | rfl | ⟨p, hpos, hlt, -, rfl⟩⟩ := scan_cases ht
  · exact (hs.endTraversal_atPos pos).raise _ _
  · exact (hs.endTraversal_atPos pos).raise _ _
  · exact ((hs.advance_atPos hp hpos hlt).select _ hp hlt).respond _

/-! #### The commands with an effect of their own -/

theorem endsGood_execGetts : EndsGood (execGetts s) :=
  endsGood_gateR hs (endsGood_orFault fun _ _ => endsGood_respond hs _)

theorem endsGood_execSetts (v : Word) : EndsGood (execSetts v s) := by
  refine endsGood_gateW hs fun hp => ?_
  split
  · exact endsGood_raise hs _ _
  · refine endsGood_orFault fun s' hw => ?_
    obtain ⟨hcur, rfl⟩ := writeTs_cases hw
    exact endsGood_respond (hs.writeWord_tsAddr v hp hcur) 0

theorem endsGood_execValidate : EndsGood (execValidate s) := by
  refine endsGood_gateW hs fun hp => endsGood_orFault fun d _ => ?_
  split_ifs with hvalid hfull
  · exact endsGood_raise hs _ _
  · exact endsGood_refuse hs _
  · exact endsGood_modifyData hs _ _ hp fun _ hm => hm.countIn (Nat.lt_of_not_le hfull)

theorem endsGood_execInvalidate : EndsGood (execInvalidate s) := by
  refine endsGood_gateW hs fun hp => endsGood_orFault fun d _ => ?_
  split_ifs with hinvalid hzero
  · exact endsGood_raise hs _ _
  · exact endsGood_refuse hs _
  · exact endsGood_modifyData hs _ _ hp fun _ hm => hm.countOut hzero

theorem endsGood_execGetts64 : EndsGood (execGetts64 s) := by
  refine endsGood_gateR hs (endsGood_orFault fun d _ => ?_)
  split
  · exact endsGood_refuse hs _
  · exact endsGood_respond hs _

theorem endsGood_execItnext : EndsGood (execItnext s) := by
  refine endsGood_gateP hs fun hp => ?_
  split
  · exact endsGood_scan hs _ hp
  · exact endsGood_refuse hs _

theorem endsGood_execGetevent (n : Word) : EndsGood (execGetevent n s) := by
  refine endsGood_gateP hs fun hp => ?_
  split_ifs with hout
  · exact endsGood_raise hs.dropRef _ _
  · have hcap := hs.cap_lt hp
    have hn : toU32 n < toU32 s.hdr.cap := by
      obtain ⟨hlo, hhi⟩ := not_or.1 hout
      have hnat := BitVec.toInt_eq_toNat_cond n
      unfold toS32 toU32 at *
      split at hnat <;> omega
    exact endsGood_respond (hs.select true hp hn) _

/-- A creation that does not fail has a capacity the block has slots for (44_access_alloc_header.md R131). -/
theorem endsGood_execAlloc (cap : Word) : EndsGood (execAlloc cap s) := by
  refine endsGood_gateA hs (endsGood_next.2 ?_)
  split_ifs with hfails
  · exact hs.raise _ _
  · have hcap : toU32 cap ≤ s.params.maxCapacity := by
      simp only [allocFails, Bool.or_eq_true, decide_eq_true_eq] at hfails
      omega
    exact (hs.create hcap).respond _

theorem endsGood_execFree : EndsGood (execFree s) :=
  endsGood_gateH hs fun _ => endsGood_respond hs.release 0

theorem endsGood_execView : EndsGood (execView s) := by
  refine endsGood_gateH hs fun _ t ht => ?_
  rcases checkTag_cases ht with ⟨-, rfl⟩ | ⟨-, ht⟩
  · exact hs.raise _ _
  · exact endsGood_respond hs 0 t ht

theorem endsGood_execWrtype (v : Word) : EndsGood (execWrtype v s) :=
  endsGood_gateHalf hs (endsGood_gateH hs fun _ => endsGood_setHdr hs rfl hs.counters_le)

theorem endsGood_execWrsource (v : Word) : EndsGood (execWrsource v s) :=
  endsGood_gateHalf hs (endsGood_gateH hs fun _ => endsGood_setHdr hs rfl hs.counters_le)

theorem endsGood_execWrevcnt (v : Word) : EndsGood (execWrevcnt v s) := by
  refine endsGood_gateH hs fun _ => ?_
  split_ifs with hout
  · exact endsGood_refuse hs _
  · obtain ⟨hlo, hhi⟩ := not_or.1 hout
    exact endsGood_setHdr hs rfl fun _ => ⟨Nat.le_of_not_lt hlo, Nat.le_of_not_lt hhi⟩

theorem endsGood_execWrvalcnt (v : Word) : EndsGood (execWrvalcnt v s) := by
  refine endsGood_gateH hs fun hp => ?_
  split_ifs with hout
  · exact endsGood_refuse hs _
  · obtain ⟨-, hevcnt⟩ := hs.counters_le hp
    exact endsGood_setHdr hs rfl fun _ => ⟨Nat.le_of_not_lt hout, hevcnt⟩

theorem endsGood_execWrovf (v : Word) : EndsGood (execWrovf v s) :=
  endsGood_gateH hs fun _ => endsGood_setHdr hs rfl hs.counters_le

/-! ### The step -/

theorem endsGood_exec (i : Instr) : EndsGood (exec i s) := by
  cases i with
  | getcore | getchip | getneuron | isvalid => exact endsGood_getFromData hs _
  | setcore v | setchip v | setneuron v => exact endsGood_setInData hs _
  | getts => exact endsGood_execGetts hs
  | setts v => exact endsGood_execSetts hs v
  | validate => exact endsGood_execValidate hs
  | invalidate => exact endsGood_execInvalidate hs
  | getts64 => exact endsGood_execGetts64 hs
  | itfa | itfv | itra | itrv | itfam | itfvm | itram | itrvm => exact endsGood_startTraversal hs _ _ _
  | itnext => exact endsGood_execItnext hs
  | getevent n => exact endsGood_execGetevent hs n
  | alloc cap => exact endsGood_execAlloc hs cap
  | free => exact endsGood_execFree hs
  | view => exact endsGood_execView hs
  | rdtype | rdsource | rdcap | rdevcnt | rdvalcnt | rdovf => exact endsGood_readHeader hs _
  | wrtype v => exact endsGood_execWrtype hs v
  | wrsource v => exact endsGood_execWrsource hs v
  | wrevcnt v => exact endsGood_execWrevcnt hs v
  | wrvalcnt v => exact endsGood_execWrvalcnt hs v
  | wrovf v => exact endsGood_execWrovf hs v

theorem endsGood_acceptCommand (w : CmdWord) : EndsGood (acceptCommand w s) := by
  unfold acceptCommand
  split
  · exact endsGood_exec hs _
  · exact endsGood_refuse hs _

/-- An image access writes at most a byte of the packet's record region (20_memory.md R37). -/
theorem imageAccess_inv (a : ImageAccess) : (imageAccess a s).Inv := by
  cases a with
  | read r =>
    simp only [imageAccess, imageRead]
    split_ifs <;> exact hs.reply _
  | write r b =>
    simp only [imageAccess, imageWrite]
    split_ifs with hp hr
    · exact hs.reply _
    · exact hs.reply _
    · have hcap := hs.cap_le_maxCapacity (by simpa using hp)
      have hlt : r < 8 * s.params.maxCapacity := by
        unfold State.regionSize at hr
        omega
      exact (hs.writeByte b hlt).reply _

theorem endsGood_accept (p : Presented) (rest : List Presented) : EndsGood (accept p rest s) := by
  cases p with
  | command w => exact endsGood_acceptCommand (hs.take rest) w
  | image a => exact endsGood_next.2 (imageAccess_inv (hs.take rest) a)
  | together w a =>
    unfold accept
    split_ifs
    · exact endsGood_acceptCommand (hs.draw.take _) w
    · exact endsGood_next.2 (imageAccess_inv (hs.draw.take _) a)
  | reset => exact endsGood_next.2 (hs.take rest).hardReset

theorem endsGood_step : EndsGood (step s) := by
  unfold step
  split
  · exact endsGood_next.2 hs
  · exact endsGood_accept hs _ _

end Operations

/-- Settles O8: each operation a step is built from keeps the invariant. -/
theorem stepKeepsInvariant : Obligations.StepKeepsInvariant :=
  fun _ t hs ht => endsGood_step hs t ht

end Sys2Proof.Machine
end

section
/-! PROOF. What the spec leaves unspecified cannot be observed. Two runs are followed side by side: first
that the observable part of the state is enough for what the shared operations read, then one rule per update
of the state and one per shared operation, then one per command; the step is assembled from these. -/

namespace Sys2Proof.Machine

namespace State.ObsEq

variable {s t : State} (h : s.ObsEq t)

include h

/-! ### What two states that differ only unobservably have in common -/

theorem tagMatches_eq (hp : s.pkt = true) : s.tagMatches = t.tagMatches := by
  simp only [State.tagMatches, h.hdr hp, h.params]

theorem regionSize_eq (hp : s.pkt = true) : s.regionSize = t.regionSize := by
  simp only [State.regionSize, h.hdr hp]

theorem word_eq (hp : s.pkt = true) {a : Nat} (ha : a + 4 ≤ s.regionSize) : s.mem.word a = t.mem.word a := by
  have hbyte := h.mem hp
  simp only [Memory.word, hbyte a (by omega), hbyte (a + 1) (by omega), hbyte (a + 2) (by omega),
    hbyte (a + 3) (by omega)]

theorem dataOf_eq (hp : s.pkt = true) {i : Nat} (hi : i < toU32 s.hdr.cap) : s.dataOf i = t.dataOf i :=
  h.word_eq hp (by unfold dataAddr State.regionSize; omega)

theorem tsOf_eq (hp : s.pkt = true) {i : Nat} (hi : i < toU32 s.hdr.cap) : s.tsOf i = t.tsOf i :=
  h.word_eq hp (by unfold tsAddr State.regionSize; omega)

/-! ### One rule per update of the state: the same update of both keeps them alike -/

theorem respond (v : Value) : (s.respond v).ObsEq (t.respond v) :=
  { h with responses := by rw [respond_responses, respond_responses, h.responses] }

theorem raise (c : Status) (info : Word) : (s.raise c info).ObsEq (t.raise c info) :=
  { h with
    responses := by rw [raise_responses, raise_responses, h.responses]
    log := by rw [raise_log, raise_log, h.log] }

theorem reply (r : ImageReply) : (s.reply r).ObsEq (t.reply r) :=
  { h with replies := by rw [reply_replies, reply_replies, h.replies] }

theorem take (rest : List Presented) : (s.take rest).ObsEq (t.take rest) := { h with inbox := rfl }

theorem draw : s.draw.ObsEq t.draw := { h with draws := congrArg (· + 1) h.draws }

theorem select (w : Bool) (n : Nat) : (s.select w n).ObsEq (t.select w n) :=
  { h with present := fun _ => rfl, sel := fun _ _ => rfl }

theorem dropRef : s.dropRef.ObsEq t.dropRef := { h with present := fun _ => rfl, sel := nofun }

theorem endTraversal : s.endTraversal.ObsEq t.endTraversal := { h with active := fun _ => rfl, it := nofun }

theorem with_it {it it' : Traversal} (hit : s.pkt = true → it = it') :
    ({ s with it := it } : State).ObsEq { t with it := it' } :=
  { h with active := fun hp => congrArg Traversal.active (hit hp), it := fun hp _ => hit hp }

theorem setHdr {hdr : Header} (hcap : hdr.cap = s.hdr.cap) : (s.setHdr hdr).ObsEq (t.setHdr hdr) :=
  { h with
    hdr := fun _ => rfl
    mem := fun hp a ha => h.mem hp a (by simpa only [regionSize, setHdr_hdr, hcap] using ha) }

/-- The same byte written to both memories reads back alike, and every other byte is as it was. -/
theorem writeByte (hs : s.mem.wf = true) (ht : t.mem.wf = true) (r : Nat) (b : Byte) :
    (s.writeByte r b).ObsEq (t.writeByte r b) :=
  { h with
    mem := fun hp a ha => by
      rw [writeByte_mem, writeByte_mem]
      by_cases hr : a = r
      · rw [hr, Memory.read_write_self _ _ _ hs, Memory.read_write_self _ _ _ ht]
      · rw [Memory.read_write_of_ne _ _ _ _ hr, Memory.read_write_of_ne _ _ _ _ hr]
        exact h.mem hp a ha }

theorem writeWord (hs : s.mem.wf = true) (ht : t.mem.wf = true) (a : Nat) (w : Word) :
    ({ s with mem := s.mem.writeWord a w } : State).ObsEq { t with mem := t.mem.writeWord a w } :=
  { h with
    mem := fun hp b hb => by
      rw [Memory.read_writeWord _ _ _ _ hs, Memory.read_writeWord _ _ _ _ ht, h.mem hp b hb] }

/-- A creation writes every header register and every byte of the new packet, and leaves neither a reference
nor a traversal, so nothing of before it is left to observe (10_state.md R27). -/
theorem create (cap : Word) : (s.create cap).ObsEq (t.create cap) :=
  { h with
    pkt := rfl
    hdr := fun _ => by rw [create_hdr, create_hdr, h.params]
    mem := fun _ a ha => by
      have hbelow : a < 8 * toU32 cap := ha
      rw [create_mem, create_mem, Memory.read_clearBelow, Memory.read_clearBelow, if_pos hbelow, if_pos hbelow]
    present := fun _ => rfl
    sel := nofun
    active := fun _ => rfl
    it := nofun }

/-- With no packet nothing of the block is observable. -/
theorem release : s.release.ObsEq t.release :=
  { h with
    pkt := rfl
    hdr := nofun
    mem := nofun
    present := nofun
    sel := nofun
    active := nofun
    it := nofun }

theorem hardReset : s.hardReset.ObsEq t.hardReset :=
  { h with
    pkt := rfl
    hdr := nofun
    mem := nofun
    present := nofun
    sel := nofun
    active := nofun
    it := nofun }

end State.ObsEq

theorem cur_eq_of_sel_eq {s t : State} (h : s.sel = t.sel) : s.cur = t.cur := by rw [State.cur, State.cur, h]

theorem curWord_eq_of_sel_eq {s t : State} (h : s.sel = t.sel) : s.curWord = t.curWord := by
  rw [State.curWord, State.curWord, h]

/-! ### Outcomes -/

/-- Both outcomes go on, to states that no observer can tell apart. -/
def Alike (o o' : Result) : Prop := ∃ s t, o = .next s ∧ o' = .next t ∧ s.ObsEq t

theorem alike_next {s t : State} (h : s.ObsEq t) : Alike (.next s) (.next t) := ⟨s, t, rfl, rfl, h⟩

theorem alike_refuse {s t : State} (h : s.ObsEq t) (c : Status) : Alike (refuse s c) (refuse t c) :=
  alike_next (h.raise c 0)

/-- The same test on both sides leads to the same branch. -/
theorem alike_ite {p : Prop} [Decidable p] {a b a' b' : Result} (hpos : p → Alike a a')
    (hneg : ¬p → Alike b b') : Alike (if p then a else b) (if p then a' else b') := by
  split
  · exact hpos ‹_›
  · exact hneg ‹_›

section Operations

variable {s t : State} (h : s.ObsEq t)

include h

/-! #### The gates: they test only what can be observed -/

theorem alike_gateHalf {arg : Word} {k k' : Result} (hk : Alike k k') :
    Alike (gateHalf arg s k) (gateHalf arg t k') :=
  alike_ite (fun _ => hk) fun _ => alike_refuse h _

theorem alike_gateH {k k' : Result} (hk : s.pkt = true → Alike k k') : Alike (gateH s k) (gateH t k') := by
  rw [gateH, gateH, ← h.pkt]
  exact alike_ite hk fun _ => alike_refuse h _

theorem alike_gateA {k k' : Result} (hk : Alike k k') : Alike (gateA s k) (gateA t k') := by
  rw [gateA, gateA, ← h.pkt]
  exact alike_ite (fun _ => alike_refuse h _) fun _ => hk

theorem alike_checkTag {k k' : Result} (hp : s.pkt = true) (hk : Alike k k') :
    Alike (checkTag s k) (checkTag t k') := by
  rw [checkTag, checkTag, ← h.tagMatches_eq hp]
  exact alike_ite (fun _ => hk) fun _ => alike_refuse h _

theorem alike_gateP {k k' : Result} (hk : s.pkt = true → Alike k k') : Alike (gateP s k) (gateP t k') :=
  alike_gateH h fun hp => alike_checkTag h hp (hk hp)

/-- Behind `gate(R)` the reference is the same on both sides, and to a slot of the packet. -/
theorem alike_gateR (hs : s.Inv) {k k' : Result}
    (hk : s.pkt = true → s.sel = t.sel → s.cur < toU32 s.hdr.cap → Alike k k') :
    Alike (gateR s k) (gateR t k') := by
  refine alike_gateP h fun hp => ?_
  rw [← h.present hp]
  refine alike_ite (fun hpresent => ?_) fun _ => alike_refuse h _
  obtain ⟨-, hcur⟩ := hs.ref hpresent
  exact hk hp (h.sel hp hpresent) hcur

theorem alike_gateW (hs : s.Inv) {k k' : Result}
    (hk : s.pkt = true → s.sel = t.sel → s.cur < toU32 s.hdr.cap → Alike k k') :
    Alike (gateW s k) (gateW t k') := by
  refine alike_gateR h hs fun hp hsel hcur => ?_
  rw [← hsel]
  exact alike_ite (fun _ => hk hp hsel hcur) fun _ => alike_refuse h _

/-! #### The words of the selected record -/

theorem alike_readData {k k' : Word → Result} {i : Nat} (hp : s.pkt = true) (hi : i < toU32 s.hdr.cap)
    (hk : Alike (k (s.dataOf i)) (k' (s.dataOf i))) :
    Alike (orFault (readData s i) k) (orFault (readData t i) k') := by
  rw [readData_of_lt hi, readData_of_lt (by rwa [← h.hdr hp]), ← h.dataOf_eq hp hi]
  exact hk

theorem alike_readTs {k k' : Word → Result} {i : Nat} (hp : s.pkt = true) (hi : i < toU32 s.hdr.cap)
    (hk : Alike (k (s.tsOf i)) (k' (s.tsOf i))) :
    Alike (orFault (readTs s i) k) (orFault (readTs t i) k') := by
  rw [readTs_of_lt hi, readTs_of_lt (by rwa [← h.hdr hp]), ← h.tsOf_eq hp hi]
  exact hk

theorem alike_writeTs (hs : s.Inv) (ht : t.Inv) {i : Nat} (w : Word) (hp : s.pkt = true)
    (hi : i < toU32 s.hdr.cap) :
    Alike (orFault (writeTs s i w) fun u => .next (u.respond 0))
      (orFault (writeTs t i w) fun u => .next (u.respond 0)) := by
  rw [writeTs_of_lt w hi, writeTs_of_lt w (by rwa [← h.hdr hp])]
  exact alike_next ((h.writeWord hs.mem_wf ht.mem_wf _ _).respond 0)

/-- A read-modify-write of the selected field word, followed by a change `k` that keeps the states alike. -/
theorem alike_modifyData (hs : s.Inv) (ht : t.Inv) (f : Word → Word) (k : State → State) (hp : s.pkt = true)
    (hsel : s.sel = t.sel) (hcur : s.cur < toU32 s.hdr.cap)
    (hk : ∀ m m', ({ s with mem := m } : State).ObsEq { t with mem := m' } →
      (k { s with mem := m }).ObsEq (k { t with mem := m' })) :
    Alike (modifyData s f k) (modifyData t f k) := by
  have hcur' : t.cur < toU32 t.hdr.cap := by rwa [← cur_eq_of_sel_eq hsel, ← h.hdr hp]
  rw [modifyData_of_lt f k hcur, modifyData_of_lt f k hcur', ← cur_eq_of_sel_eq hsel, ← h.dataOf_eq hp hcur]
  exact alike_next ((hk _ _ (h.writeWord hs.mem_wf ht.mem_wf _ _)).respond 0)

theorem alike_getFromData (hs : s.Inv) (f : Word → Value) : Alike (getFromData s f) (getFromData t f) := by
  refine alike_gateR h hs fun hp hsel hcur => ?_
  rw [← cur_eq_of_sel_eq hsel]
  exact alike_readData h hp hcur (alike_next (h.respond _))

theorem alike_setInData (hs : s.Inv) (ht : t.Inv) (f : Word → Word) :
    Alike (setInData s f) (setInData t f) :=
  alike_gateW h hs fun hp hsel hcur => alike_modifyData h hs ht f id hp hsel hcur fun _ _ hm => hm

/-! #### The header registers -/

theorem alike_readHeader (f : Header → Value) :
    Alike (readHeader s (f s.hdr)) (readHeader t (f t.hdr)) := by
  refine alike_gateH h fun hp => ?_
  rw [← h.hdr hp]
  exact alike_next (h.respond _)

/-- A header write that keeps `HDR.CAP`, and completes. -/
theorem alike_setHdr {hdr : Header} (hcap : hdr.cap = s.hdr.cap) :
    Alike (.next ((s.setHdr hdr).respond 0)) (.next ((t.setHdr hdr).respond 0)) :=
  alike_next ((h.setHdr hcap).respond 0)

/-! #### The traversals -/

theorem alike_startTraversal (mutable rev vonly : Bool) :
    Alike (startTraversal mutable rev vonly s) (startTraversal mutable rev vonly t) := by
  refine alike_gateP h fun _ => alike_next (State.ObsEq.respond (h.with_it fun hp => ?_) 0)
  rw [h.hdr hp]

end Operations

/-- An active traversal that has not met its end stands at no negative position. -/
theorem pos_nonneg_of_positionsLeft {s : State} (hs : s.Inv) (hactive : s.it.active = true) {k : Nat}
    (hk : positionsLeft s = k + 1) : ∃ p : Nat, toS32 s.it.pos = (p : Int) := by
  obtain ⟨-, hstands⟩ := hs.traversal hactive
  refine Int.eq_ofNat_of_zero_le ?_
  unfold positionsLeft at hk
  split at hk
  · omega
  · rw [if_neg ‹_›] at hstands
    obtain ⟨hnonneg, -⟩ := hstands
    exact hnonneg

/-- One step of a traversal takes one position off those left. -/
theorem positionsLeft_advance {s : State} {p k : Nat} (hpos : toS32 s.it.pos = (p : Int)) (hp : p < 2 ^ 31 - 1)
    (hk : positionsLeft s = k + 1) : positionsLeft s.advance = k := by
  cases hrev : s.it.rev with
  | true =>
    simp only [positionsLeft, State.advance_it, hrev, if_true] at hk ⊢
    rw [toS32_sub_one (by omega)]
    omega
  | false =>
    simp only [positionsLeft, State.advance_it, State.advance_hdr, hrev, Bool.false_eq_true, if_false] at hk ⊢
    rw [toS32_add_one (by omega)]
    omega

/-- The loop of `ITNEXT` reads only what can be observed, and meets no fault. -/
theorem alike_scan {k : Nat} {s t : State} (hs : s.Inv) (h : s.ObsEq t) (hp : s.pkt = true)
    (hactive : s.it.active = true) (hk : positionsLeft s = k) : Alike (scan k s) (scan k t) := by
  induction k generalizing s t with
  | zero => exact alike_refuse h.endTraversal _
  | succ k ih =>
    have hit := h.it hp hactive
    have hcap := hs.cap_lt hp
    obtain ⟨p, hpos⟩ := pos_nonneg_of_positionsLeft hs hactive hk
    have hadvance : s.advance.ObsEq t.advance := by
      rw [State.advance, State.advance, ← hit]
      exact h.with_it fun _ => rfl
    simp only [scan, ← hit, ← h.hdr hp, hpos]
    refine alike_ite (fun _ => alike_next (h.endTraversal.raise _ _)) fun hlt => ?_
    have hslot : p < toU32 s.hdr.cap := Nat.lt_of_not_le hlt
    have hskip : skipsSlot t p = skipsSlot s p := by
      rw [skipsSlot_of_lt hslot, skipsSlot_of_lt (by rwa [← h.hdr hp]), ← hit, ← h.dataOf_eq hp hslot]
    rw [hskip, skipsSlot_of_lt hslot, orFault_ok, orFault_ok]
    refine alike_ite (fun _ => ?_) fun _ => alike_next ((hadvance.select _ _).respond _)
    exact ih (hs.advance_atPos hp hpos hslot) hadvance hp hactive
      (positionsLeft_advance hpos (by omega) hk)

section Commands

variable {s t : State} (hs : s.Inv) (ht : t.Inv) (h : s.ObsEq t)

/-! ### The commands with an effect of their own -/

include h hs

theorem alike_execItnext : Alike (execItnext s) (execItnext t) := by
  refine alike_gateP h fun hp => ?_
  rw [← h.active hp]
  refine alike_ite (fun hactive => ?_) fun _ => alike_refuse h _
  have hleft : positionsLeft t = positionsLeft s := by
    simp only [positionsLeft, h.it hp hactive, h.hdr hp]
  rw [hleft]
  exact alike_scan hs h hp hactive rfl

theorem alike_execGetts : Alike (execGetts s) (execGetts t) := by
  refine alike_gateR h hs fun hp hsel hcur => ?_
  rw [← cur_eq_of_sel_eq hsel]
  exact alike_readTs h hp hcur (alike_next (h.respond _))

theorem alike_execGetts64 : Alike (execGetts64 s) (execGetts64 t) := by
  refine alike_gateR h hs fun hp hsel hcur => ?_
  rw [← cur_eq_of_sel_eq hsel, ← h.hdr hp]
  exact alike_readTs h hp hcur (alike_ite (fun _ => alike_refuse h _) fun _ => alike_next (h.respond _))

include ht

theorem alike_execSetts (v : Word) : Alike (execSetts v s) (execSetts v t) := by
  refine alike_gateW h hs fun hp hsel hcur => alike_ite (fun _ => alike_next (h.raise _ _)) fun _ => ?_
  rw [← cur_eq_of_sel_eq hsel]
  exact alike_writeTs h hs ht v hp hcur

theorem alike_execValidate : Alike (execValidate s) (execValidate t) := by
  refine alike_gateW h hs fun hp hsel hcur => ?_
  rw [← cur_eq_of_sel_eq hsel, ← curWord_eq_of_sel_eq hsel, ← h.hdr hp]
  refine alike_readData h hp hcur ?_
  refine alike_ite (fun _ => alike_next (h.raise _ _)) fun _ => alike_ite (fun _ => alike_refuse h _) fun _ => ?_
  refine alike_modifyData h hs ht _ _ hp hsel hcur fun _ _ hm => ?_
  rw [State.countIn, State.countIn, ← hm.hdr hp]
  exact hm.setHdr rfl

theorem alike_execInvalidate : Alike (execInvalidate s) (execInvalidate t) := by
  refine alike_gateW h hs fun hp hsel hcur => ?_
  rw [← cur_eq_of_sel_eq hsel, ← curWord_eq_of_sel_eq hsel, ← h.hdr hp]
  refine alike_readData h hp hcur ?_
  refine alike_ite (fun _ => alike_next (h.raise _ _)) fun _ => alike_ite (fun _ => alike_refuse h _) fun _ => ?_
  refine alike_modifyData h hs ht _ _ hp hsel hcur fun _ _ hm => ?_
  rw [State.countOut, State.countOut, ← hm.hdr hp]
  exact hm.setHdr rfl

omit hs ht

theorem alike_execGetevent (n : Word) : Alike (execGetevent n s) (execGetevent n t) := by
  refine alike_gateP h fun hp => ?_
  rw [← h.hdr hp]
  exact alike_ite (fun _ => alike_next (h.dropRef.raise _ _)) fun _ =>
    alike_next ((h.select _ _).respond _)

theorem alike_execAlloc (cap : Word) : Alike (execAlloc cap s) (execAlloc cap t) := by
  refine alike_gateA h ?_
  rw [← h.params]
  split
  · exact alike_next (h.raise _ _)
  · exact alike_next ((h.create cap).respond _)

theorem alike_execFree : Alike (execFree s) (execFree t) :=
  alike_gateH h fun _ => alike_next (h.release.respond 0)

theorem alike_execView : Alike (execView s) (execView t) :=
  alike_gateH h fun hp => alike_checkTag h hp (alike_next (h.respond 0))

theorem alike_execWrtype (v : Word) : Alike (execWrtype v s) (execWrtype v t) :=
  alike_gateHalf h (alike_gateH h fun hp => by
    rw [← h.hdr hp]
    exact alike_setHdr h rfl)

theorem alike_execWrsource (v : Word) : Alike (execWrsource v s) (execWrsource v t) :=
  alike_gateHalf h (alike_gateH h fun hp => by
    rw [← h.hdr hp]
    exact alike_setHdr h rfl)

theorem alike_execWrevcnt (v : Word) : Alike (execWrevcnt v s) (execWrevcnt v t) := by
  refine alike_gateH h fun hp => ?_
  rw [← h.hdr hp]
  exact alike_ite (fun _ => alike_refuse h _) fun _ => alike_setHdr h rfl

theorem alike_execWrvalcnt (v : Word) : Alike (execWrvalcnt v s) (execWrvalcnt v t) := by
  refine alike_gateH h fun hp => ?_
  rw [← h.hdr hp]
  exact alike_ite (fun _ => alike_refuse h _) fun _ => alike_setHdr h rfl

theorem alike_execWrovf (v : Word) : Alike (execWrovf v s) (execWrovf v t) := by
  refine alike_gateH h fun hp => ?_
  rw [← h.hdr hp]
  exact alike_setHdr h rfl

/-! ### The step -/

include hs ht

theorem alike_exec (i : Instr) : Alike (exec i s) (exec i t) := by
  cases i with
  | getcore | getchip | getneuron | isvalid => exact alike_getFromData h hs _
  | setcore v | setchip v | setneuron v => exact alike_setInData h hs ht _
  | getts => exact alike_execGetts hs h
  | setts v => exact alike_execSetts hs ht h v
  | validate => exact alike_execValidate hs ht h
  | invalidate => exact alike_execInvalidate hs ht h
  | getts64 => exact alike_execGetts64 hs h
  | itfa | itfv | itra | itrv | itfam | itfvm | itram | itrvm => exact alike_startTraversal h _ _ _
  | itnext => exact alike_execItnext hs h
  | getevent n => exact alike_execGetevent h n
  | alloc cap => exact alike_execAlloc h cap
  | free => exact alike_execFree h
  | view => exact alike_execView h
  | rdtype => exact alike_readHeader h fun hdr => hdr.type.setWidth 64
  | rdsource => exact alike_readHeader h fun hdr => hdr.source.setWidth 64
  | rdcap => exact alike_readHeader h fun hdr => zext64 hdr.cap
  | rdevcnt => exact alike_readHeader h fun hdr => zext64 hdr.evcnt
  | rdvalcnt => exact alike_readHeader h fun hdr => zext64 hdr.valcnt
  | rdovf => exact alike_readHeader h fun hdr => zext64 hdr.ovf
  | wrtype v => exact alike_execWrtype h v
  | wrsource v => exact alike_execWrsource h v
  | wrevcnt v => exact alike_execWrevcnt h v
  | wrvalcnt v => exact alike_execWrvalcnt h v
  | wrovf v => exact alike_execWrovf h v

theorem alike_acceptCommand (w : CmdWord) : Alike (acceptCommand w s) (acceptCommand w t) := by
  unfold acceptCommand
  split
  · exact alike_exec hs ht h _
  · exact alike_refuse h _

/-- The image port reads and writes no byte beyond the packet's record region (20_memory.md R36, R37). -/
theorem imageAccess_obsEq (a : ImageAccess) : (imageAccess a s).ObsEq (imageAccess a t) := by
  cases hp : s.pkt with
  | false =>
    have hp' : t.pkt = false := h.pkt.symm.trans hp
    cases a <;> simpa [imageAccess, imageRead, imageWrite, hp, hp'] using h.reply _
  | true =>
    have hp' : t.pkt = true := h.pkt.symm.trans hp
    cases a with
    | read r =>
      simp only [imageAccess, imageRead, hp, hp', ← h.regionSize_eq hp, Bool.not_true, Bool.false_eq_true,
        if_false]
      split_ifs with hr
      · exact h.reply _
      · rw [h.mem hp r (Nat.lt_of_not_le hr)]
        exact h.reply _
    | write r b =>
      simp only [imageAccess, imageWrite, hp, hp', ← h.regionSize_eq hp, Bool.not_true, Bool.false_eq_true,
        if_false]
      split_ifs
      · exact h.reply _
      · exact (h.writeByte hs.mem_wf ht.mem_wf r b).reply _

theorem alike_accept (p : Presented) (rest : List Presented) : Alike (accept p rest s) (accept p rest t) := by
  cases p with
  | command w => exact alike_acceptCommand (hs.take rest) (ht.take rest) (h.take rest) w
  | image a => exact alike_next (imageAccess_obsEq (hs.take rest) (ht.take rest) (h.take rest) a)
  | together w a =>
    rw [accept, accept, ← h.draws]
    exact alike_ite (fun _ => alike_acceptCommand (hs.draw.take _) (ht.draw.take _) (h.draw.take _) w)
      fun _ => alike_next (imageAccess_obsEq (hs.draw.take _) (ht.draw.take _) (h.draw.take _) a)
  | reset => exact alike_next (h.take rest).hardReset

theorem alike_step : Alike (step s) (step t) := by
  rw [step, step, ← h.inbox]
  split
  · exact alike_next h
  · exact alike_accept hs ht h _ _

end Commands

/-- Settles O11: every operation a step is built from reads only what can be observed. -/
theorem unspecifiedStateUnobservable : Obligations.UnspecifiedStateUnobservable :=
  fun _ _ hs ht h => alike_step hs ht h

end Sys2Proof.Machine
end

section
/-! PROOF. What a command and what a transaction can do to the state, said once: `Effect` lists every way a
command can end, with what it has changed, and `Transaction` every kind of step. -/

namespace Sys2Proof.Machine

/-! ### The validity mark of a field word -/

/-- A setter of a field above bit 0 leaves the validity mark alone (10_state.md R25). -/
theorem isValid_setField {shift : Nat} (hshift : 0 < shift) (m d v : Word) :
    isValid (setField shift m d v) = isValid d := by
  simp [isValid, setField, hshift]

theorem isValid_setCore (d v : Word) : isValid (setCore d v) = isValid d :=
  isValid_setField (by decide) coreMask d v

theorem isValid_setChip (d v : Word) : isValid (setChip d v) = isValid d :=
  isValid_setField (by decide) chipMask d v

theorem isValid_setNeuron (d v : Word) : isValid (setNeuron d v) = isValid d :=
  isValid_setField (by decide) neuronMask d v

theorem isValid_markValid (d : Word) : isValid (markValid d) = true := by simp [isValid, markValid]

theorem isValid_markInvalid (d : Word) : isValid (markInvalid d) = false := by simp [isValid, markInvalid]

/-! ### What a command can do -/

/-- The commands that write a field of the selected record's field word (40_record_codec.md R73, R75, R77). -/
def SetsField (i : Instr) : Prop := ∃ v, i = .setcore v ∨ i = .setchip v ∨ i = .setneuron v

/-- The ways a command can end when it goes on, each with the state it leaves. -/
inductive Effect (s : State) : Instr → State → Prop
  /-- a condition with no other effect (60_exceptions.md R164) -/
  | condition (i : Instr) (c : Status) (info : Word) : Effect s i (s.raise c info)
  /-- a value answered, and nothing written -/
  | answered (i : Instr) (v : Value) : Effect s i (s.respond v)
  /-- a field of the selected record written -/
  | fieldSet {i : Instr} {w : Word} (hi : SetsField i) (hmark : isValid w = isValid (s.dataOf s.cur)) :
      Effect s i (({ s with mem := s.mem.writeWord (dataAddr s.cur) w } : State).respond 0)
  /-- the timestamp of the selected record written -/
  | timestampSet (v : Word) :
      Effect s (.setts v) (({ s with mem := s.mem.writeWord (tsAddr s.cur) v } : State).respond 0)
  /-- the selected record marked Valid and counted -/
  | validated (hcur : s.cur < toU32 s.hdr.cap) (hroom : toU32 s.hdr.evcnt < toU32 s.hdr.cap)
      (hmark : isValid (s.dataOf s.cur) = false) :
      Effect s .validate
        ((State.countIn
          { s with mem := s.mem.writeWord (dataAddr s.cur) (markValid (s.dataOf s.cur)) }).respond 0)
  /-- the selected record's mark cleared and the record taken off the count -/
  | invalidated (hcur : s.cur < toU32 s.hdr.cap) (hsome : toU32 s.hdr.valcnt ≠ 0)
      (hmark : isValid (s.dataOf s.cur) = true) :
      Effect s .invalidate
        ((State.countOut
          { s with mem := s.mem.writeWord (dataAddr s.cur) (markInvalid (s.dataOf s.cur)) }).respond 0)
  /-- a traversal started -/
  | started (mutable rev vonly : Bool) (it : Traversal) :
      Effect s (startInstr mutable rev vonly) (({ s with it := it } : State).respond 0)
  /-- the traversal ended -/
  | ended (pos : Word) (c : Status) (info : Word) :
      Effect s .itnext ((s.atPos pos).endTraversal.raise c info)
  /-- a slot handed out by the traversal -/
  | handedOut (pos : Word) (p : Nat) (v : Value) :
      Effect s .itnext (((s.atPos pos).advance.select s.it.mutable p).respond v)
  /-- no record selected, the index being out of bounds -/
  | deselected (n info : Word) : Effect s (.getevent n) (s.dropRef.raise .eBounds info)
  /-- a record selected -/
  | selected (n : Word) (p : Nat) (v : Value) : Effect s (.getevent n) ((s.select true p).respond v)
  /-- a packet created where there was none -/
  | created (hp : s.pkt = false) (cap : Word) (v : Value) : Effect s (.alloc cap) ((s.create cap).respond v)
  /-- the packet released -/
  | released : Effect s .free (s.release.respond 0)
  /-- the type tag written -/
  | typeSet (v : Word) (x : BitVec 16) :
      Effect s (.wrtype v) ((s.setHdr { s.hdr with type := x }).respond 0)
  /-- the source written -/
  | sourceSet (v : Word) (x : BitVec 16) :
      Effect s (.wrsource v) ((s.setHdr { s.hdr with source := x }).respond 0)
  /-- the event count written -/
  | eventCountSet (v : Word) : Effect s (.wrevcnt v) ((s.setHdr { s.hdr with evcnt := v }).respond 0)
  /-- the valid count written -/
  | validCountSet (v : Word) : Effect s (.wrvalcnt v) ((s.setHdr { s.hdr with valcnt := v }).respond 0)
  /-- the overflow count written -/
  | overflowSet (v : Word) : Effect s (.wrovf v) ((s.setHdr { s.hdr with ovf := v }).respond 0)

/-- The outcome, if it goes on, is one of the ways the command `i` can end. -/
def HasEffect (s : State) (i : Instr) (o : Result) : Prop := ∀ t, o = .next t → Effect s i t

section Effects

variable {s : State} {i : Instr}

theorem hasEffect_next {t : State} (h : Effect s i t) : HasEffect s i (.next t) :=
  fun _ heq => Host.Outcome.next.inj heq ▸ h

theorem hasEffect_respond (v : Value) : HasEffect s i (.next (s.respond v)) := hasEffect_next (.answered i v)

theorem hasEffect_raise (c : Status) (info : Word) : HasEffect s i (.next (s.raise c info)) :=
  hasEffect_next (.condition i c info)

theorem hasEffect_refuse (c : Status) : HasEffect s i (refuse s c) := hasEffect_raise c 0

/-! #### The gates and the shared operations -/

theorem hasEffect_gateHalf {arg : Word} {k : Result} (hk : HasEffect s i k) :
    HasEffect s i (gateHalf arg s k) := by
  intro t ht
  rcases gateHalf_cases ht with ⟨-, rfl⟩ | ⟨-, ht⟩
  · exact .condition i _ _
  · exact hk t ht

theorem hasEffect_gateH {k : Result} (hk : HasEffect s i k) : HasEffect s i (gateH s k) := by
  intro t ht
  rcases gateH_cases ht with ⟨-, rfl⟩ | ⟨-, ht⟩
  · exact .condition i _ _
  · exact hk t ht

theorem hasEffect_gateA {k : Result} (hk : s.pkt = false → HasEffect s i k) : HasEffect s i (gateA s k) := by
  intro t ht
  rcases gateA_cases ht with ⟨-, rfl⟩ | ⟨hp, ht⟩
  · exact .condition i _ _
  · exact hk hp t ht

theorem hasEffect_checkTag {k : Result} (hk : HasEffect s i k) : HasEffect s i (checkTag s k) := by
  intro t ht
  rcases checkTag_cases ht with ⟨-, rfl⟩ | ⟨-, ht⟩
  · exact .condition i _ _
  · exact hk t ht

theorem hasEffect_gateP {k : Result} (hk : HasEffect s i k) : HasEffect s i (gateP s k) :=
  hasEffect_gateH (hasEffect_checkTag hk)

theorem hasEffect_gateR {k : Result} (hk : HasEffect s i k) : HasEffect s i (gateR s k) := by
  intro t ht
  rcases gateR_cases ht with ⟨c, -, rfl⟩ | ⟨-, -, -, ht⟩
  · exact .condition i _ _
  · exact hk t ht

theorem hasEffect_gateW {k : Result} (hk : HasEffect s i k) : HasEffect s i (gateW s k) := by
  intro t ht
  rcases gateW_cases ht with ⟨c, -, rfl⟩ | ⟨-, -, -, -, ht⟩
  · exact .condition i _ _
  · exact hk t ht

theorem hasEffect_orFault {α : Type} {x : Except Fault α} {k : α → Result}
    (hk : ∀ a, x = .ok a → HasEffect s i (k a)) : HasEffect s i (orFault x k) := by
  intro t ht
  obtain ⟨a, ha, ht⟩ := (orFault_eq_next_iff x k t).1 ht
  exact hk a ha t ht

theorem hasEffect_modifyData {f : Word → Word} {k : State → State}
    (hk : s.cur < toU32 s.hdr.cap → Effect s i
      ((k { s with mem := s.mem.writeWord (dataAddr s.cur) (f (s.dataOf s.cur)) }).respond 0)) :
    HasEffect s i (modifyData s f k) := by
  intro t ht
  obtain ⟨hcur, rfl⟩ := modifyData_cases ht
  exact hk hcur

theorem hasEffect_getFromData (f : Word → Value) : HasEffect s i (getFromData s f) :=
  hasEffect_gateR (hasEffect_orFault fun _ _ => hasEffect_respond _)

theorem hasEffect_setInData {f : Word → Word} (hi : SetsField i) (hf : ∀ d, isValid (f d) = isValid d) :
    HasEffect s i (setInData s f) :=
  hasEffect_gateW (hasEffect_modifyData fun _ => .fieldSet hi (hf _))

theorem hasEffect_readHeader (v : Value) : HasEffect s i (readHeader s v) :=
  hasEffect_gateH (hasEffect_respond v)

theorem hasEffect_startTraversal (mutable rev vonly : Bool) :
    HasEffect s (startInstr mutable rev vonly) (startTraversal mutable rev vonly s) :=
  hasEffect_gateP (hasEffect_next (.started mutable rev vonly _))

/-! #### The commands with an effect of their own -/

theorem hasEffect_execGetts : HasEffect s i (execGetts s) :=
  hasEffect_gateR (hasEffect_orFault fun _ _ => hasEffect_respond _)

theorem hasEffect_execGetts64 : HasEffect s i (execGetts64 s) := by
  refine hasEffect_gateR (hasEffect_orFault fun d _ => ?_)
  split
  · exact hasEffect_refuse _
  · exact hasEffect_respond _

theorem hasEffect_execSetts (v : Word) : HasEffect s (.setts v) (execSetts v s) := by
  refine hasEffect_gateW ?_
  split
  · exact hasEffect_raise _ _
  · refine hasEffect_orFault fun u hwrite => ?_
    obtain ⟨-, rfl⟩ := writeTs_cases hwrite
    exact hasEffect_next (.timestampSet v)

theorem hasEffect_execValidate : HasEffect s .validate (execValidate s) := by
  refine hasEffect_gateW (hasEffect_orFault fun d hread => ?_)
  obtain ⟨-, rfl⟩ := readData_cases hread
  split_ifs with hmark hfull
  · exact hasEffect_raise _ _
  · exact hasEffect_refuse _
  · exact hasEffect_modifyData fun hcur =>
      .validated hcur (Nat.lt_of_not_le hfull) (Bool.eq_false_iff.2 hmark)

theorem hasEffect_execInvalidate : HasEffect s .invalidate (execInvalidate s) := by
  refine hasEffect_gateW (hasEffect_orFault fun d hread => ?_)
  obtain ⟨-, rfl⟩ := readData_cases hread
  split_ifs with hmark hzero
  · exact hasEffect_raise _ _
  · exact hasEffect_refuse _
  · exact hasEffect_modifyData fun hcur => .invalidated hcur hzero (by simpa using hmark)

theorem hasEffect_execItnext : HasEffect s .itnext (execItnext s) := by
  refine hasEffect_gateP ?_
  split
  · intro t ht
    obtain ⟨pos, rfl | rfl | ⟨p, -, -, -, rfl⟩⟩ := scan_cases ht
    · exact .ended pos _ _
    · exact .ended pos _ _
    · exact .handedOut pos p _
  · exact hasEffect_refuse _

theorem hasEffect_execGetevent (n : Word) : HasEffect s (.getevent n) (execGetevent n s) := by
  refine hasEffect_gateP ?_
  split
  · exact hasEffect_next (.deselected n n)
  · exact hasEffect_next (.selected n _ _)

theorem hasEffect_execAlloc (cap : Word) : HasEffect s (.alloc cap) (execAlloc cap s) := by
  refine hasEffect_gateA fun hp => hasEffect_next ?_
  split
  · exact .condition _ _ _
  · exact .created hp cap _

theorem hasEffect_execFree : HasEffect s .free (execFree s) := hasEffect_gateH (hasEffect_next .released)

theorem hasEffect_execView : HasEffect s i (execView s) :=
  hasEffect_gateH (hasEffect_checkTag (hasEffect_respond 0))

theorem hasEffect_execWrtype (v : Word) : HasEffect s (.wrtype v) (execWrtype v s) :=
  hasEffect_gateHalf (hasEffect_gateH (hasEffect_next (.typeSet v _)))

theorem hasEffect_execWrsource (v : Word) : HasEffect s (.wrsource v) (execWrsource v s) :=
  hasEffect_gateHalf (hasEffect_gateH (hasEffect_next (.sourceSet v _)))

theorem hasEffect_execWrevcnt (v : Word) : HasEffect s (.wrevcnt v) (execWrevcnt v s) := by
  refine hasEffect_gateH ?_
  split
  · exact hasEffect_refuse _
  · exact hasEffect_next (.eventCountSet v)

theorem hasEffect_execWrvalcnt (v : Word) : HasEffect s (.wrvalcnt v) (execWrvalcnt v s) := by
  refine hasEffect_gateH ?_
  split
  · exact hasEffect_refuse _
  · exact hasEffect_next (.validCountSet v)

theorem hasEffect_execWrovf (v : Word) : HasEffect s (.wrovf v) (execWrovf v s) :=
  hasEffect_gateH (hasEffect_next (.overflowSet v))

end Effects

theorem hasEffect_exec (i : Instr) (s : State) : HasEffect s i (exec i s) := by
  cases i with
  | getcore | getchip | getneuron | isvalid => exact hasEffect_getFromData _
  | setcore v => exact hasEffect_setInData ⟨v, .inl rfl⟩ fun d => isValid_setCore d v
  | setchip v => exact hasEffect_setInData ⟨v, .inr (.inl rfl)⟩ fun d => isValid_setChip d v
  | setneuron v => exact hasEffect_setInData ⟨v, .inr (.inr rfl)⟩ fun d => isValid_setNeuron d v
  | getts => exact hasEffect_execGetts
  | setts v => exact hasEffect_execSetts v
  | validate => exact hasEffect_execValidate
  | invalidate => exact hasEffect_execInvalidate
  | getts64 => exact hasEffect_execGetts64
  | itfa => exact hasEffect_startTraversal false false false
  | itfv => exact hasEffect_startTraversal false false true
  | itra => exact hasEffect_startTraversal false true false
  | itrv => exact hasEffect_startTraversal false true true
  | itfam => exact hasEffect_startTraversal true false false
  | itfvm => exact hasEffect_startTraversal true false true
  | itram => exact hasEffect_startTraversal true true false
  | itrvm => exact hasEffect_startTraversal true true true
  | itnext => exact hasEffect_execItnext
  | getevent n => exact hasEffect_execGetevent n
  | alloc cap => exact hasEffect_execAlloc cap
  | free => exact hasEffect_execFree
  | view => exact hasEffect_execView
  | rdtype | rdsource | rdcap | rdevcnt | rdvalcnt | rdovf => exact hasEffect_readHeader _
  | wrtype v => exact hasEffect_execWrtype v
  | wrsource v => exact hasEffect_execWrsource v
  | wrevcnt v => exact hasEffect_execWrevcnt v
  | wrvalcnt v => exact hasEffect_execWrvalcnt v
  | wrovf v => exact hasEffect_execWrovf v

/-- Everything a command can do when it goes on. -/
theorem exec_effect {i : Instr} {s t : State} (h : exec i s = .next t) : Effect s i t := hasEffect_exec i s t h

/-! ### What a transaction can do -/

/-- `s` with something else presented and another count of the port-order choices. -/
def State.presenting (s : State) (inbox : List Presented) (draws : Nat) : State :=
  { s with inbox := inbox, draws := draws }

/-- The kinds of a step from a state whose next transaction has been taken from the inbox. -/
inductive Transaction (s : State) : State → Prop
  | command {i : Instr} {t : State} (h : exec i s = .next t) : Transaction s t
  | illegal : Transaction s (s.raise .xIllegalCmd 0)
  | image (a : ImageAccess) : Transaction s (imageAccess a s)
  | reset : Transaction s s.hardReset

theorem acceptCommand_transaction {w : CmdWord} {s t : State} (h : acceptCommand w s = .next t) :
    Transaction s t := by
  unfold acceptCommand at h
  split at h
  · exact .command h
  · rw [← (refuse_eq_next_iff ..).1 h]
    exact .illegal

theorem accept_transaction {p : Presented} {rest : List Presented} {s t : State}
    (h : accept p rest s = .next t) : ∃ inbox draws, Transaction (s.presenting inbox draws) t := by
  cases p with
  | command w => exact ⟨_, _, acceptCommand_transaction (s := s.take rest) h⟩
  | image a =>
    rw [← Host.Outcome.next.inj h]
    exact ⟨_, _, .image (s := s.take rest) a⟩
  | together w a =>
    simp only [accept] at h
    split at h
    · exact ⟨_, _, acceptCommand_transaction (s := s.draw.take _) h⟩
    · rw [← Host.Outcome.next.inj h]
      exact ⟨_, _, .image (s := s.draw.take _) a⟩
  | reset =>
    rw [← Host.Outcome.next.inj h]
    exact ⟨_, _, .reset (s := s.take rest)⟩

/-- Everything a step can do when it goes on: nothing, or one transaction (70_reset_and_hazards.md R204). -/
theorem step_cases {s t : State} (h : step s = .next t) :
    t = s ∨ ∃ inbox draws, Transaction (s.presenting inbox draws) t := by
  unfold step at h
  split at h
  · exact .inl (Host.Outcome.next.inj h).symm
  · exact .inr (accept_transaction h)

/-- An image access answers, and changes nothing else but the memory (20_memory.md R36, R37). -/
theorem imageAccess_cases (a : ImageAccess) (s : State) :
    ∃ m r, imageAccess a s = ({ s with mem := m } : State).reply r := by
  cases a with
  | read r =>
    simp only [imageAccess, imageRead]
    split_ifs <;> exact ⟨s.mem, _, rfl⟩
  | write r b =>
    simp only [imageAccess, imageWrite]
    split_ifs
    · exact ⟨s.mem, _, rfl⟩
    · exact ⟨s.mem, _, rfl⟩
    · exact ⟨_, _, rfl⟩

end Sys2Proof.Machine
end

section
/-! PROOF. Which commands write which part of the state, and what every step keeps. Each is read off the
effects a command can have. -/

namespace Sys2Proof.Machine

/-! ### The writers -/

/-- Settles O17: the effects that write a header register belong to the commands named. -/
theorem headerRegisterWriters : Obligations.HeaderRegisterWriters := by
  intro i s t ht
  cases exec_effect ht with
  | condition | answered | fieldSet | timestampSet | started | ended | handedOut | deselected | selected
  | released => simp [State.atPos]
  | created hnone => simp [hnone]
  | validated | invalidated | typeSet | sourceSet | eventCountSet | validCountSet | overflowSet => simp

/-- Settles O18: the effects that write `PKT`, `SEL`, `IT` or the records belong to the commands named. -/
theorem interfaceAndRecordWriters : Obligations.InterfaceAndRecordWriters := by
  intro i s t ht
  cases exec_effect ht with
  | condition | answered => simp
  | typeSet | sourceSet | eventCountSet | validCountSet | overflowSet => simp
  | fieldSet hi =>
    obtain ⟨v, rfl | rfl | rfl⟩ := hi <;> simp
  | timestampSet | validated | invalidated => simp
  | started m r v it => 
    refine ⟨?_, ?_, fun _ => .inl ⟨m, r, v, rfl⟩, ?_, rfl, rfl, rfl, rfl⟩ <;> simp
  | ended | handedOut => simp [State.atPos]
  | deselected | selected => simp
  | created | released => simp

/-! ### What every step keeps -/

/-- Settles O19: a command that changes `HDR.CAP` finds no packet, an image access changes the memory only,
and a hardware reset leaves no packet. -/
theorem capacityFixedWhilePacketLives : Obligations.CapacityFixedWhilePacketLives := by
  intro s t ht hp hp'
  rcases step_cases ht with rfl | ⟨inbox, draws, htrans⟩
  · rfl
  cases htrans with
  | command h =>
    obtain ⟨-, -, hcap, -⟩ := headerRegisterWriters _ _ _ h
    by_contra hne
    obtain ⟨hnone, -⟩ := hcap hne
    exact Bool.false_ne_true (hnone.symm.trans hp)
  | illegal => rfl
  | image a =>
    obtain ⟨m, r, heq⟩ := imageAccess_cases a (s.presenting inbox draws)
    rw [heq]
    rfl
  | reset => exact absurd hp' Bool.false_ne_true

/-- A command adds to the responses and the reports and takes nothing away (10_state.md R26). -/
theorem Effect.histories_grow {i : Instr} {s t : State} (h : Effect s i t) :
    s.responses <+: t.responses ∧ s.log <+: t.log := by
  cases h with
  | condition | ended | deselected => exact ⟨List.prefix_append _ _, List.prefix_append _ _⟩
  | answered | fieldSet | timestampSet | validated | invalidated | started | handedOut | selected | created
  | released | typeSet | sourceSet | eventCountSet | validCountSet | overflowSet =>
    exact ⟨List.prefix_append _ _, List.prefix_rfl⟩

/-- Settles O20: every transaction adds at most to the end of each history. -/
theorem historiesOnlyGrow : Obligations.HistoriesOnlyGrow := by
  intro s t ht
  rcases step_cases ht with rfl | ⟨inbox, draws, htrans⟩
  · exact ⟨List.prefix_rfl, List.prefix_rfl, List.prefix_rfl, rfl⟩
  cases htrans with
  | command h =>
    obtain ⟨hresponses, hlog⟩ := (exec_effect h).histories_grow
    obtain ⟨-, -, -, -, hparams, -, -, hreplies⟩ := interfaceAndRecordWriters _ _ _ h
    exact ⟨hresponses, hlog, hreplies ▸ List.prefix_rfl, hparams⟩
  | illegal => exact ⟨List.prefix_append _ _, List.prefix_append _ _, List.prefix_rfl, rfl⟩
  | image a =>
    obtain ⟨m, r, heq⟩ := imageAccess_cases a (s.presenting inbox draws)
    rw [heq]
    exact ⟨List.prefix_rfl, List.prefix_rfl, List.prefix_append _ _, rfl⟩
  | reset => exact ⟨List.prefix_rfl, List.prefix_rfl, List.prefix_rfl, rfl⟩

/-! ### The step and the reset -/

/-- Settles O6: by the equations of the step and of the decoder's use in it. -/
theorem stepRunsDecodedCommand : Obligations.StepRunsDecodedCommand := by
  refine ⟨fun s w rest i hinbox hdecode => ?_, fun s w a rest i hinbox hdecode => ?_, fun s hinbox => ?_⟩
  · simp only [step, hinbox, accept, acceptCommand, hdecode]
    rfl
  · simp only [step, hinbox, accept, acceptCommand, hdecode]
    rfl
  · simp only [step, hinbox]

/-- The parameters an implementation fixes are in the ranges of 00_scope.md R6. -/
theorem config_params_wf : Config.params.wf = true := by
  have hcap := Config.maxCapacity.isLt
  have hbits := Config.sizeBitsLessOne.isLt
  have hrange : Config.params.maxCapacity ≤ 2 ^ 31 - 1 ∧ 1 ≤ Config.params.sizeBits ∧
      Config.params.sizeBits ≤ 64 := by
    show Config.maxCapacity.val ≤ 2 ^ 31 - 1 ∧ 1 ≤ Config.sizeBitsLessOne.val + 1 ∧
      Config.sizeBitsLessOne.val + 1 ≤ 64
    omega
  simpa [Params.wf, and_assoc] using hrange

/-- Settles O9: at reset there is no packet, no reference, no traversal and an empty memory. -/
theorem resetMeetsInvariant : Obligations.ResetMeetsInvariant where
  params_wf := config_params_wf
  books := nofun
  ref := nofun
  traversal := nofun
  mem_wf := rfl
  mem_bound := nofun

end Sys2Proof.Machine
end

section
/-! PROOF. The validity marks and the count of them: only the two bookkeeping commands change a mark of a
packet, and each keeps `HDR.VALCNT` equal to the number of Valid slots. -/

namespace Sys2Proof.Machine

/-! ### The marks -/

/-- The mark of each slot after a field word is written. -/
theorem isValid_dataOf_writeData {s : State} (hm : s.mem.wf = true) (i j : Nat) (w : Word) :
    isValid (({ s with mem := s.mem.writeWord (dataAddr i) w } : State).dataOf j) =
      if j = i then isValid w else isValid (s.dataOf j) := by
  rw [dataOf_writeData hm, apply_ite isValid]

/-- A field word written with the mark the slot has leaves every mark as it is. -/
theorem isValid_dataOf_writeData_of_eq {s : State} (hm : s.mem.wf = true) {i : Nat} {w : Word}
    (hmark : isValid w = isValid (s.dataOf i)) (j : Nat) :
    isValid (({ s with mem := s.mem.writeWord (dataAddr i) w } : State).dataOf j) = isValid (s.dataOf j) := by
  rw [isValid_dataOf_writeData hm]
  split_ifs with hj
  · rw [hmark, hj]
  · rfl

/-- The one mark that a write of a field word can change is that of its slot, which takes the word's. -/
theorem isValid_of_writeData_ne {s : State} (hm : s.mem.wf = true) {i j : Nat} {w : Word}
    (hne : isValid (({ s with mem := s.mem.writeWord (dataAddr i) w } : State).dataOf j) ≠
      isValid (s.dataOf j)) :
    j = i ∧ isValid (({ s with mem := s.mem.writeWord (dataAddr i) w } : State).dataOf j) = isValid w := by
  rw [isValid_dataOf_writeData hm] at hne ⊢
  split_ifs at hne ⊢ with hj
  · exact ⟨hj, rfl⟩
  · exact absurd rfl hne

/-- Settles O34: of the effects a command can have on a packet, only two write a mark other than the slot's
own. -/
theorem marksChangeOnlyByBookkeeping : Obligations.MarksChangeOnlyByBookkeeping := by
  intro i s t j hm hp ht hne
  cases exec_effect ht with
  | condition | answered | started | ended | handedOut | deselected | selected | released | typeSet | sourceSet
  | eventCountSet | validCountSet | overflowSet => exact absurd rfl hne
  | fieldSet hi hmark => exact absurd (isValid_dataOf_writeData_of_eq hm hmark j) hne
  | timestampSet v => exact absurd (congrArg isValid (dataOf_writeTs s s.cur j v)) hne
  | validated =>
    obtain ⟨hj, hmark⟩ := isValid_of_writeData_ne hm hne
    exact ⟨hj, .inl ⟨rfl, hmark.trans (isValid_markValid _)⟩⟩
  | invalidated =>
    obtain ⟨hj, hmark⟩ := isValid_of_writeData_ne hm hne
    exact ⟨hj, .inr ⟨rfl, hmark.trans (isValid_markInvalid _)⟩⟩
  | created hnone => exact absurd hp (Bool.eq_false_iff.1 hnone)

/-! ### The count of the marks -/

/-- How many slots of a packet of `n` slots are marked Valid. -/
def State.validSlots (s : State) (n : Nat) : Nat := (List.range n).countP fun i => isValid (s.dataOf i)

theorem State.countAgrees_iff (s : State) :
    s.countAgrees ↔ (s.pkt = true → toU32 s.hdr.valcnt = s.validSlots (toU32 s.hdr.cap)) := Iff.rfl

theorem validSlots_succ (s : State) (n : Nat) :
    s.validSlots (n + 1) = s.validSlots n + if isValid (s.dataOf n) then 1 else 0 := by
  rw [State.validSlots, List.range_succ, List.countP_append, List.countP_singleton]
  rfl

theorem validSlots_congr {s t : State} {n : Nat}
    (h : ∀ i < n, isValid (t.dataOf i) = isValid (s.dataOf i)) : t.validSlots n = s.validSlots n :=
  List.countP_congr fun i hi => by rw [h i (List.mem_range.1 hi)]

/-- One slot more is Valid when one slot's mark is set and every other mark is as it was. -/
theorem validSlots_of_marked {s t : State} {n c : Nat} (hc : c < n) (hbefore : isValid (s.dataOf c) = false)
    (hafter : isValid (t.dataOf c) = true) (hother : ∀ i ≠ c, isValid (t.dataOf i) = isValid (s.dataOf i)) :
    t.validSlots n = s.validSlots n + 1 := by
  induction n with
  | zero => exact absurd hc (Nat.not_lt_zero c)
  | succ n ih =>
    rw [validSlots_succ, validSlots_succ]
    rcases Nat.lt_succ_iff_lt_or_eq.1 hc with hlt | rfl
    · rw [ih hlt, hother n (by omega)]
      omega
    · rw [validSlots_congr fun i hi => hother i (by omega), hbefore, hafter]
      rfl

/-- A created packet's field words are zero (44_access_alloc_header.md R131). -/
theorem dataOf_create {s : State} {cap : Word} {i : Nat} (hi : i < toU32 cap) :
    (s.create cap).dataOf i = 0 := by
  simp only [State.dataOf, State.create_mem, Memory.word, Memory.read_clearBelow]
  rw [if_pos (by unfold dataAddr; omega), if_pos (by unfold dataAddr; omega),
    if_pos (by unfold dataAddr; omega), if_pos (by unfold dataAddr; omega)]
  rfl

/-! ### The count and the marks agree -/

/-- The agreement is about `PKT`, `HDR.CAP`, `HDR.VALCNT` and the marks. -/
theorem State.countAgrees.of_marks_eq {s t : State} (h : s.countAgrees) (hpkt : t.pkt = s.pkt)
    (hcap : t.hdr.cap = s.hdr.cap) (hvalcnt : t.hdr.valcnt = s.hdr.valcnt)
    (hmarks : ∀ j, isValid (t.dataOf j) = isValid (s.dataOf j)) : t.countAgrees := by
  rw [State.countAgrees_iff] at h ⊢
  rw [hpkt, hcap, hvalcnt, validSlots_congr fun j _ => hmarks j]
  exact h

theorem countAgrees_create (s : State) (cap : Word) : (s.create cap).countAgrees := by
  intro _
  refine (List.countP_eq_zero.2 fun i hi => ?_).symm
  have hslot : i < toU32 cap := List.mem_range.1 hi
  rw [dataOf_create hslot]
  exact Bool.false_ne_true

/-- `VALIDATE` sets one mark and counts one more record (41_validity_bookkeeping.md R91). -/
theorem countAgrees_countIn {s : State} (hs : s.Inv) (h : s.countAgrees) (hcur : s.cur < toU32 s.hdr.cap)
    (hroom : toU32 s.hdr.evcnt < toU32 s.hdr.cap) (hmark : isValid (s.dataOf s.cur) = false) :
    (State.countIn { s with
      mem := s.mem.writeWord (dataAddr s.cur) (markValid (s.dataOf s.cur)) }).countAgrees := by
  intro hp
  obtain ⟨hval, -⟩ := hs.counters_le hp
  have hcap := hs.cap_lt hp
  have hmarks := fun j => isValid_dataOf_writeData hs.mem_wf s.cur j (markValid (s.dataOf s.cur))
  calc toU32 (s.hdr.valcnt + 1)
      = toU32 s.hdr.valcnt + 1 := toU32_add_one (by omega)
    _ = s.validSlots (toU32 s.hdr.cap) + 1 := congrArg (· + 1) (h hp)
    _ = _ := (validSlots_of_marked hcur hmark
        ((hmarks s.cur).trans ((if_pos rfl).trans (isValid_markValid _)))
        fun j hj => (hmarks j).trans (if_neg hj)).symm

/-- `INVALIDATE` clears one mark and takes one record off the count (41_validity_bookkeeping.md R92). -/
theorem countAgrees_countOut {s : State} (hs : s.Inv) (h : s.countAgrees) (hcur : s.cur < toU32 s.hdr.cap)
    (hsome : toU32 s.hdr.valcnt ≠ 0) (hmark : isValid (s.dataOf s.cur) = true) :
    (State.countOut { s with
      mem := s.mem.writeWord (dataAddr s.cur) (markInvalid (s.dataOf s.cur)) }).countAgrees := by
  intro hp
  have hmarks := fun j => isValid_dataOf_writeData hs.mem_wf s.cur j (markInvalid (s.dataOf s.cur))
  have hslots := validSlots_of_marked hcur
    ((hmarks s.cur).trans ((if_pos rfl).trans (isValid_markInvalid _))) hmark
    fun j hj => ((hmarks j).trans (if_neg hj)).symm
  calc toU32 (s.hdr.valcnt - 1)
      = toU32 s.hdr.valcnt - 1 := toU32_sub_one hsome
    _ = s.validSlots (toU32 s.hdr.cap) - 1 := congrArg (· - 1) (h hp)
    _ = _ := by rw [hslots, Nat.add_sub_cancel]; rfl

/-- Settles O33: a creation starts with no Valid slot, the two bookkeeping commands move the count and the
mark together, and no other effect but a write of the valid count touches either. -/
theorem validCountAgreesWithMarks : Obligations.ValidCountAgreesWithMarks := by
  intro i s t hs hcount hi ht
  cases exec_effect ht with
  | condition | answered | started | ended | handedOut | deselected | selected | typeSet | sourceSet
  | eventCountSet | overflowSet => exact hcount.of_marks_eq rfl rfl rfl fun _ => rfl
  | fieldSet _ hmark =>
    exact hcount.of_marks_eq rfl rfl rfl (isValid_dataOf_writeData_of_eq hs.mem_wf hmark)
  | timestampSet v =>
    exact hcount.of_marks_eq rfl rfl rfl fun j => congrArg isValid (dataOf_writeTs s s.cur j v)
  | validated hcur hroom hmark => exact countAgrees_countIn hs hcount hcur hroom hmark
  | invalidated hcur hsome hmark => exact countAgrees_countOut hs hcount hcur hsome hmark
  | created _ cap => exact countAgrees_create s cap
  | released => exact fun hp => absurd hp Bool.false_ne_true
  | validCountSet v => exact absurd rfl (hi v)

end Sys2Proof.Machine
end

section
/-! PROOF. The record region as bytes and the two ports to it: the fields of a record in its bytes, the commands
that only read, and the accesses of the image port (20_memory.md R34 to R43). -/

namespace Sys2Proof.Machine

/-! ### A word as its bytes -/

/-- The byte at an offset is a byte of each word that covers it (20_memory.md R34). -/
theorem Memory.read_add_eq_wordByte (m : Memory) (a j : Nat) (hj : j < 4) :
    m.read (a + j) = wordByte (m.word a) j := by
  obtain ⟨h0, h1, h2, h3⟩ :=
    wordByte_wordOfBytes (m.read a) (m.read (a + 1)) (m.read (a + 2)) (m.read (a + 3))
  interval_cases j
  · exact h0.symm
  · exact h1.symm
  · exact h2.symm
  · exact h3.symm

/-- A bit of a byte is a bit of its word. -/
theorem getLsbD_wordByte (w : Word) (j k : Nat) (hk : k < 8) :
    (wordByte w j).getLsbD k = w.getLsbD (8 * j + k) := by
  simp [wordByte, hk]

/-- A field that lies within one byte of its word. -/
theorem extractLsb'_wordByte (w : Word) (j start len : Nat) (h : start + len ≤ 8) :
    (wordByte w j).extractLsb' start len = w.extractLsb' (8 * j + start) len := by
  refine BitVec.eq_of_getLsbD_eq fun k hk => ?_
  rw [BitVec.getLsbD_extractLsb', BitVec.getLsbD_extractLsb', getLsbD_wordByte w j _ (by omega), Nat.add_assoc]

/-- The chip field spans bytes 0 and 1 (20_memory.md R34). -/
theorem chipField_eq_bytes (w : Word) :
    w.extractLsb' 6 6 = ((wordByte w 1).extractLsb' 0 4 ++ (wordByte w 0).extractLsb' 6 2 : BitVec 6) := by
  rw [extractLsb'_wordByte w 1 0 4 (by decide), extractLsb'_wordByte w 0 6 2 (by decide)]
  exact (BitVec.extractLsb'_append_extractLsb'_eq_extractLsb' (start₁ := 6) (len₁ := 2) (len₂ := 4) rfl).symm

/-- The neuron field spans bytes 1, 2 and 3 (20_memory.md R34). -/
theorem neuronField_eq_bytes (w : Word) :
    w.extractLsb' 12 20 = (wordByte w 3 ++ wordByte w 2 ++ (wordByte w 1).extractLsb' 4 4 : BitVec 20) := by
  have hupper : (wordByte w 3 ++ wordByte w 2 : BitVec 16) = w.extractLsb' 16 16 :=
    BitVec.extractLsb'_append_extractLsb'_eq_extractLsb' rfl
  rw [hupper, extractLsb'_wordByte w 1 4 4 (by decide)]
  exact (BitVec.extractLsb'_append_extractLsb'_eq_extractLsb' (start₁ := 12) (len₁ := 4) (len₂ := 16) rfl).symm

/-- Byte `j` of slot `i` is byte `j` of its field word (20_memory.md R31, R34). -/
theorem read_eq_wordByte_dataOf (s : State) (i j : Nat) (hj : j < 4) :
    s.mem.read (8 * i + j) = wordByte (s.dataOf i) j :=
  s.mem.read_add_eq_wordByte (dataAddr i) j hj

/-- Byte `4 + j` of slot `i` is byte `j` of its timestamp word (20_memory.md R31, R34). -/
theorem read_eq_wordByte_tsOf (s : State) (i j : Nat) (hj : j < 4) :
    s.mem.read (8 * i + 4 + j) = wordByte (s.tsOf i) j :=
  s.mem.read_add_eq_wordByte (tsAddr i) j hj

/-- Settles O21: each byte is a byte of its word, and each field is cut from the bytes it spans. -/
theorem recordBytesLittleEndian : Obligations.RecordBytesLittleEndian := by
  intro s i
  have hbyte0 : s.mem.read (8 * i) = wordByte (s.dataOf i) 0 := read_eq_wordByte_dataOf s i 0 (by decide)
  have hbyte1 : s.mem.read (8 * i + 1) = wordByte (s.dataOf i) 1 := read_eq_wordByte_dataOf s i 1 (by decide)
  have hbyte2 : s.mem.read (8 * i + 2) = wordByte (s.dataOf i) 2 := read_eq_wordByte_dataOf s i 2 (by decide)
  have hbyte3 : s.mem.read (8 * i + 3) = wordByte (s.dataOf i) 3 := read_eq_wordByte_dataOf s i 3 (by decide)
  have hbyte7 : s.mem.read (8 * i + 7) = wordByte (s.tsOf i) 3 := read_eq_wordByte_tsOf s i 3 (by decide)
  rw [hbyte0, hbyte1, hbyte2, hbyte3, hbyte7]
  refine ⟨read_eq_wordByte_dataOf s i, fun j hlo hhi => ?_, fun a => rfl,
    (getLsbD_wordByte _ 0 0 (by decide)).symm, (extractLsb'_wordByte _ 0 1 5 (by decide)).symm,
    chipField_eq_bytes _, neuronField_eq_bytes _, (getLsbD_wordByte _ 3 7 (by decide)).symm⟩
  rw [show 8 * i + j = 8 * i + 4 + (j - 4) by omega]
  exact read_eq_wordByte_tsOf s i (j - 4) (by omega)

/-! ### The commands that only read -/

/-- The outcome, if it goes on, differs from `s` in one more response and in nothing else. -/
def AnswersOnly (s : State) (o : Result) : Prop := ∀ t, o = .next t → ∃ c v, t = answering s c v

section ReadPaths

variable {s : State}

theorem answersOnly_respond (v : Value) : AnswersOnly s (.next (s.respond v)) :=
  fun _ ht => ⟨.ok, v, (Host.Outcome.next.inj ht).symm⟩

/-- A condition that sends no report leaves only its response (60_exceptions.md R163, R164). -/
theorem answersOnly_refuse {c : Status} (hc : c.reported = false) : AnswersOnly s (refuse s c) :=
  fun _ ht => ⟨c, 0, ((refuse_eq_next_iff ..).1 ht).symm.trans (raise_eq_answering s c 0 hc)⟩

theorem answersOnly_gateH {k : Result} (hk : AnswersOnly s k) : AnswersOnly s (gateH s k) := by
  intro t ht
  rcases gateH_cases ht with ⟨-, rfl⟩ | ⟨-, ht⟩
  · exact answersOnly_refuse rfl _ rfl
  · exact hk t ht

theorem answersOnly_checkTag {k : Result} (hk : AnswersOnly s k) : AnswersOnly s (checkTag s k) := by
  intro t ht
  rcases checkTag_cases ht with ⟨-, rfl⟩ | ⟨-, ht⟩
  · exact answersOnly_refuse rfl _ rfl
  · exact hk t ht

theorem answersOnly_gateR {k : Result} (hk : AnswersOnly s k) : AnswersOnly s (gateR s k) := by
  intro t ht
  rcases gateR_cases ht with ⟨c, hc, rfl⟩ | ⟨-, -, -, ht⟩
  · exact answersOnly_refuse hc.not_reported _ rfl
  · exact hk t ht

theorem answersOnly_orFault {α : Type} {x : Except Fault α} {k : α → Result}
    (hk : ∀ a, AnswersOnly s (k a)) : AnswersOnly s (orFault x k) := by
  intro t ht
  obtain ⟨a, -, ht⟩ := (orFault_eq_next_iff x k t).1 ht
  exact hk a t ht

theorem answersOnly_getFromData (f : Word → Value) : AnswersOnly s (getFromData s f) :=
  answersOnly_gateR (answersOnly_orFault fun _ => answersOnly_respond _)

theorem answersOnly_readHeader (v : Value) : AnswersOnly s (readHeader s v) :=
  answersOnly_gateH (answersOnly_respond v)

theorem answersOnly_execGetts : AnswersOnly s (execGetts s) :=
  answersOnly_gateR (answersOnly_orFault fun _ => answersOnly_respond _)

theorem answersOnly_execGetts64 : AnswersOnly s (execGetts64 s) := by
  refine answersOnly_gateR (answersOnly_orFault fun t => ?_)
  split
  · exact answersOnly_refuse rfl
  · exact answersOnly_respond _

theorem answersOnly_execView : AnswersOnly s (execView s) :=
  answersOnly_gateH (answersOnly_checkTag (answersOnly_respond 0))

end ReadPaths

/-- Settles O16: each of the thirteen commands is a gate without reports before an answer. -/
theorem readPathsChangeNothing : Obligations.ReadPathsChangeNothing := by
  intro i s t hi ht
  have hanswers : AnswersOnly s (exec i s) := by
    cases i with
    | getcore | getchip | getneuron | isvalid => exact answersOnly_getFromData _
    | getts => exact answersOnly_execGetts
    | getts64 => exact answersOnly_execGetts64
    | rdtype | rdsource | rdcap | rdevcnt | rdvalcnt | rdovf => exact answersOnly_readHeader _
    | view => exact answersOnly_execView
    | _ => simp at hi
  obtain ⟨c, v, rfl⟩ := hanswers t ht
  rfl

/-! ### The image port -/

/-- The record-region offset an image access names (20_memory.md R36, R37). -/
def ImageAccess.offset : ImageAccess → Nat
  | .read r => r
  | .write r _ => r

section ImagePort

variable {s : State}

theorem imageAccess_noPacket (a : ImageAccess) (hp : s.pkt = false) : imageAccess a s = s.reply .noPacket := by
  cases a <;> simp [imageAccess, imageRead, imageWrite, hp]

theorem imageAccess_beyond {a : ImageAccess} (hp : s.pkt = true) (hr : 8 * s.hdr.cap.toNat ≤ a.offset) :
    imageAccess a s = s.reply .imgRange := by
  cases a <;> exact (if_neg (by simp [hp])).trans (if_pos hr)

theorem imageRead_within {r : Nat} (hp : s.pkt = true) (hr : r < 8 * s.hdr.cap.toNat) :
    imageRead r s = s.reply (.data (s.mem.read r)) :=
  (if_neg (by simp [hp])).trans (if_neg (Nat.not_le_of_lt hr))

theorem imageWrite_within {r : Nat} (b : Byte) (hp : s.pkt = true) (hr : r < 8 * s.hdr.cap.toNat) :
    imageWrite r b s = (s.writeByte r b).reply .written :=
  (if_neg (by simp [hp])).trans (if_neg (Nat.not_le_of_lt hr))

/-- An image access presented next is the whole of the step. -/
theorem step_image {a : ImageAccess} {rest : List Presented} (hinbox : s.inbox = .image a :: rest) :
    step s = .next (imageAccess a (s.take rest)) := by
  simp only [step, hinbox, accept]

theorem step_image_noPacket {a : ImageAccess} {rest : List Presented} (hinbox : s.inbox = .image a :: rest)
    (hp : s.pkt = false) : step s = .next ((s.take rest).reply .noPacket) :=
  (step_image hinbox).trans (congrArg _ (imageAccess_noPacket a hp))

theorem step_image_beyond {a : ImageAccess} {rest : List Presented} (hinbox : s.inbox = .image a :: rest)
    (hp : s.pkt = true) (hr : 8 * s.hdr.cap.toNat ≤ a.offset) :
    step s = .next ((s.take rest).reply .imgRange) :=
  (step_image hinbox).trans (congrArg _ (imageAccess_beyond hp hr))

end ImagePort

/-- Settles O47: by the three outcomes of an image access, none of which writes a field of the block. -/
theorem imageReadReplies : Obligations.ImageReadReplies :=
  fun _ _ _ hinbox =>
    ⟨fun hp => step_image_noPacket hinbox hp, fun hp hr => step_image_beyond hinbox hp hr,
      fun hp hr => (step_image hinbox).trans (congrArg _ (imageRead_within hp hr))⟩

/-- Settles O48: within the region the write changes the memory only, and of it the one byte. -/
theorem imageWriteStoresOneByte : Obligations.ImageWriteStoresOneByte := by
  intro s r b rest hinbox
  refine ⟨fun hp => step_image_noPacket hinbox hp, fun hp hr => step_image_beyond hinbox hp hr,
    fun hp hr hm => ⟨((s.take rest).writeByte r b).reply .written, ?_, ?_, fun a ha => ?_, rfl⟩⟩
  · exact (step_image hinbox).trans (congrArg _ (imageWrite_within b hp hr))
  · exact Memory.read_write_self s.mem r b hm
  · exact Memory.read_write_of_ne s.mem r a b ha

/-! ### The order of the two ports -/

/-- Settles O7: the choice left open picks one of the two transactions, and the other stays next. -/
theorem portOrderEither : Obligations.PortOrderEither := by
  intro s w a rest hinbox
  simp only [step, hinbox, accept]
  by_cases hfirst : Config.commandFirst s.draws = true
  · exact .inl (if_pos hfirst)
  · exact .inr (if_neg hfirst)

end Sys2Proof.Machine
end

section
/-! PROOF. The command word: the decoder and the encoder are inverse to each other on the legal words, and the
opcode table selects a row exactly for those (30_encoding.md R55 to R59, R61). -/

namespace Sys2Proof

open Machine

/-! ### The fields of an encoded command -/

@[simp] theorem cmdOp_encode (i : Instr) : cmdOp (encode i) = i.op := cmdOp_append i.op i.arg

@[simp] theorem cmdArg_encode (i : Instr) : cmdArg (encode i) = i.arg := cmdArg_append i.op i.arg

/-- The encoding of a command is the one word with the command's opcode and operand. -/
theorem encode_eq_of_fields {w : CmdWord} {i : Instr} (hop : cmdOp w = i.op) (harg : cmdArg w = i.arg) :
    encode i = w := by
  rw [encode, ← hop, ← harg, cmdOp_append_cmdArg]

/-! ### The operand classes

What the three checks of R57 accept, and what they then answer. -/

section Classes

variable {w : CmdWord} {i j : Instr} {mk : Word → Instr}

theorem classN_eq_ok_iff : classN w i = .ok j ↔ cmdArg w = 0 ∧ i = j := by
  simp only [classN, ite_eq_iff, Except.ok.injEq, reduceCtorEq, and_false, or_false]

theorem classUS_eq_ok_iff : classUS w mk = .ok j ↔ mk (cmdArg w) = j := by
  simp only [classUS, Except.ok.injEq]

theorem classH_eq_ok_iff : classH w mk = .ok j ↔ halfOperand (cmdArg w) = true ∧ mk (cmdArg w) = j := by
  simp only [classH, halfOperand, beq_iff_eq, ite_eq_iff, Except.ok.injEq, reduceCtorEq, and_false, or_false]

end Classes

/-! ### Decoding and encoding -/

/-- A well-formed command is read back from any word that has its opcode and operand. -/
theorem decode_encode {i : Instr} (hwf : i.wellFormed = true) : decode (encode i) = .ok i := by
  unfold decode
  rw [cmdOp_encode]
  cases i with
  | getcore | getchip | getneuron | getts | isvalid | validate | invalidate | getts64 | itfa | itfv | itra
  | itrv | itfam | itfvm | itram | itrvm | itnext | free | view | rdtype | rdsource | rdcap | rdevcnt
  | rdvalcnt | rdovf => exact classN_eq_ok_iff.2 ⟨cmdArg_encode _, rfl⟩
  | setcore v | setchip v | setneuron v | setts v | getevent v | alloc v | wrevcnt v | wrvalcnt v | wrovf v =>
    exact classUS_eq_ok_iff.2 (congrArg _ (cmdArg_encode _))
  | wrtype v | wrsource v =>
    exact classH_eq_ok_iff.2
      ⟨(congrArg halfOperand (cmdArg_encode _)).trans hwf, congrArg _ (cmdArg_encode _)⟩


/-- What a word that decodes holds: the opcode and the operand of a well-formed command. The arms of the
decoder are taken by operand class, in the order in which it lists them. -/
theorem fields_of_decode {w : CmdWord} {i : Instr} :
    decode w = .ok i → cmdOp w = i.op ∧ cmdArg w = i.arg ∧ i.wellFormed = true := by
  fun_cases decode w with
  | case1 hop | case3 hop | case5 hop | case7 hop | case9 hop | case10 hop | case11 hop | case12 hop
  | case13 hop | case14 hop | case15 hop | case16 hop | case17 hop | case18 hop | case19 hop | case20 hop
  | case21 hop | case24 hop | case25 hop | case26 hop | case27 hop | case28 hop | case29 hop | case30 hop
  | case31 hop =>
    intro h
    obtain ⟨harg, rfl⟩ := classN_eq_ok_iff.1 h
    exact ⟨hop, harg, rfl⟩
  | case2 hop | case4 hop | case6 hop | case8 hop | case22 hop | case23 hop | case34 hop | case35 hop
  | case36 hop =>
    intro h
    obtain rfl := classUS_eq_ok_iff.1 h
    exact ⟨hop, rfl, rfl⟩
  | case32 hop | case33 hop =>
    intro h
    obtain ⟨hwf, rfl⟩ := classH_eq_ok_iff.1 h
    exact ⟨hop, rfl, hwf⟩
  | case37 => nofun

/-- The decoder reads a command from its encoding, if it is well-formed, and from no other word. -/
theorem decode_eq_ok_iff {w : CmdWord} {i : Instr} :
    decode w = .ok i ↔ i.wellFormed = true ∧ encode i = w := by
  refine ⟨fun h => ?_, fun ⟨hwf, hw⟩ => hw ▸ decode_encode hwf⟩
  obtain ⟨hop, harg, hwf⟩ := fields_of_decode h
  exact ⟨hwf, encode_eq_of_fields hop harg⟩

/-- Settles O1: each command's word takes the decoder to its own arm, whose class accepts the operand. -/
theorem decodeAfterEncode : Obligations.DecodeAfterEncode :=
  fun _ hwf => decode_encode hwf

/-- Settles O2: a word that decodes holds the fields of what it decodes to, and is made of nothing else. -/
theorem encodeAfterDecode : Obligations.EncodeAfterDecode :=
  fun _ _ h => decode_eq_ok_iff.1 h

/-- Settles O4: the legal words are encodings; of the illegal ones the decoder's own check is evaluated. -/
theorem writtenWordsDecode : Obligations.WrittenWordsDecode :=
  ⟨decode_encode (i := .setcore 3) rfl, decode_encode (i := .getevent 0xFFFFFFFF#32) rfl,
    decode_encode (i := .validate) rfl, decode_encode (i := .getts64) rfl, decode_encode (i := .itrvm) rfl,
    decode_encode (i := .wrsource 7) rfl, by decide, by decide, by decide⟩

/-! ### The opcode table -/

theorem row_pattern (i : Instr) : i.row.pattern = i.op ++ 0#32 := by
  cases i <;> (dsimp only [Instr.row, Instr.op]; decide)

/-- Every row has the mask of its operand class. -/
theorem row_mask_cases (i : Instr) : i.row.mask = maskN ∨ i.row.mask = maskUS ∨ i.row.mask = maskH := by
  cases i <;> simp [Instr.row]

/-- Every row fixes the whole of `op`. -/
theorem cmdOp_row_mask (i : Instr) : cmdOp i.row.mask = BitVec.allOnes 8 := by
  obtain h | h | h := row_mask_cases i <;> rw [h] <;> rfl

/-- Two command words are equal when their fields are. -/
theorem cmdWord_eq_iff {v w : CmdWord} : v = w ↔ cmdOp v = cmdOp w ∧ cmdArg v = cmdArg w := by
  refine ⟨fun h => h ▸ ⟨rfl, rfl⟩, fun ⟨hop, harg⟩ => ?_⟩
  rw [← cmdOp_append_cmdArg v, hop, harg, cmdOp_append_cmdArg]

/-- A row is selected by its opcode over an operand that is zero where the row's class says so. -/
theorem row_selects_iff {i : Instr} {w : CmdWord} :
    i.row.selects w = true ↔ cmdOp w = i.op ∧ cmdArg w &&& cmdArg i.row.mask = 0 := by
  rw [OpcodeRow.selects, beq_iff_eq, row_pattern, cmdWord_eq_iff, cmdOp_and, cmdArg_and, cmdOp_append,
    cmdArg_append, cmdOp_row_mask, BitVec.and_allOnes]
  rfl

theorem and_maskN_arg (a : Word) : a &&& cmdArg maskN = a := BitVec.and_allOnes

/-- A class H mask keeps the high half of the operand. -/
theorem halfOperand_of_and_maskH {a : Word} (h : a &&& cmdArg maskH = 0) : halfOperand a = true := by
  have hhigh := congrArg (BitVec.extractLsb' 16 16) h
  rw [BitVec.extractLsb'_and] at hhigh
  exact beq_iff_eq.2 (BitVec.and_allOnes.symm.trans hhigh)

/-- A row's word decodes, and to a command of that row. -/
theorem decode_of_row_selects {i : Instr} {w : CmdWord} (h : i.row.selects w = true) :
    ∃ j, decode w = .ok j ∧ j.row = i.row := by
  obtain ⟨hop, harg⟩ := row_selects_iff.1 h
  unfold decode
  rw [hop]
  cases i with
  | getcore | getchip | getneuron | getts | isvalid | validate | invalidate | getts64 | itfa | itfv | itra
  | itrv | itfam | itfvm | itram | itrvm | itnext | free | view | rdtype | rdsource | rdcap | rdevcnt
  | rdvalcnt | rdovf => exact ⟨_, classN_eq_ok_iff.2 ⟨(and_maskN_arg _).symm.trans harg, rfl⟩, rfl⟩
  | setcore v | setchip v | setneuron v | setts v | getevent v | alloc v | wrevcnt v | wrvalcnt v | wrovf v =>
    exact ⟨_, classUS_eq_ok_iff.2 rfl, rfl⟩
  | wrtype v | wrsource v => exact ⟨_, classH_eq_ok_iff.2 ⟨halfOperand_of_and_maskH harg, rfl⟩, rfl⟩

open Laws.TableRow in
/-- A well-formed command's word selects the command's row. -/
theorem row_selects_encode {i : Instr} (hwf : i.wellFormed = true) : i.row.selects (encode i) = true := by
  have hpattern := row_pattern i
  cases i with
  | getcore | getchip | getneuron | getts | isvalid | validate | invalidate | getts64 | itfa | itfv | itra
  | itrv | itfam | itfvm | itram | itrvm | itnext | free | view | rdtype | rdsource | rdcap | rdevcnt
  | rdvalcnt | rdovf => exact selects_N _ _ _ hpattern
  | setcore v | setchip v | setneuron v | setts v | getevent v | alloc v | wrevcnt v | wrvalcnt v | wrovf v =>
    exact selects_US _ _ _ hpattern v
  | wrtype v | wrsource v => exact selects_H _ _ _ hpattern v hwf

/-- The rows of the table are the rows of the commands. -/
theorem mem_opcodeTable_iff {r : OpcodeRow} : r ∈ opcodeTable ↔ ∃ i : Instr, i.row = r := by
  refine ⟨fun h => ?_, fun ⟨i, hi⟩ => hi ▸ Laws.TableRow.row_mem i⟩
  obtain ⟨i, -, hi⟩ := List.mem_map.1 h
  exact ⟨i, hi⟩

/-- A word selects the rows of the commands it decodes to, so one at most. -/
theorem selects_iff_decode {r : OpcodeRow} {w : CmdWord} (hr : r ∈ opcodeTable) :
    r.selects w = true ↔ ∃ i, decode w = .ok i ∧ i.row = r := by
  obtain ⟨i, rfl⟩ := mem_opcodeTable_iff.1 hr
  refine ⟨decode_of_row_selects, ?_⟩
  rintro ⟨j, hdecode, hrow⟩
  obtain ⟨hwf, rfl⟩ := decode_eq_ok_iff.1 hdecode
  exact hrow ▸ row_selects_encode hwf

/-- No command has an opcode that R59 lists as reserved. -/
theorem reservedOp_op (i : Instr) : reservedOp i.op = false := by
  cases i <;> simp [Instr.op, reservedOp]

/-- A word with a reserved opcode selects no row. -/
theorem selects_eq_false_of_reservedOp {r : OpcodeRow} {w : CmdWord} (hw : reservedOp (cmdOp w) = true)
    (hr : r ∈ opcodeTable) : r.selects w = false := by
  obtain ⟨i, rfl⟩ := mem_opcodeTable_iff.1 hr
  refine Bool.eq_false_iff.2 fun hsel => ?_
  rw [(row_selects_iff.1 hsel).1, reservedOp_op] at hw
  cases hw

/-- An illegal word presented next is answered `X_ILLEGAL_CMD` and does nothing else. -/
theorem step_illegal {w : CmdWord} {e : DecodeError} {s : State} {rest : List Presented}
    (hdecode : decode w = .error e) (hinbox : s.inbox = .command w :: rest) :
    step s = .next (answering { s with inbox := rest } .xIllegalCmd 0) := by
  simp only [step, hinbox, accept, acceptCommand, hdecode]
  exact congrArg _ (raise_eq_answering (s.take rest) .xIllegalCmd 0 rfl)

/-- Settles O3: the rows a word selects are those of the commands it decodes to, and the decoder gives one
command or an error; no row has a reserved opcode, and the zero word has one. -/
theorem commandWordsTotal : Obligations.CommandWordsTotal := by
  refine ⟨fun w => ?_, fun w hw r => selects_eq_false_of_reservedOp hw,
    fun r => selects_eq_false_of_reservedOp (by decide)⟩
  cases hdecode : decode w with
  | ok i =>
    refine .inl ⟨i, rfl, Laws.TableRow.row_mem i, ?_, fun r hr hsel => ?_⟩
    · exact (selects_iff_decode (Laws.TableRow.row_mem i)).2 ⟨i, hdecode, rfl⟩
    · obtain ⟨j, hj, rfl⟩ := (selects_iff_decode hr).1 hsel
      rw [Except.ok.inj (hdecode.symm.trans hj)]
  | error e =>
    refine .inr ⟨fun r hr => Bool.eq_false_iff.2 fun hsel => ?_, ⟨e, rfl⟩,
      fun s rest => step_illegal hdecode⟩
    obtain ⟨j, hj, -⟩ := (selects_iff_decode hr).1 hsel
    cases hdecode.symm.trans hj

end Sys2Proof
end

section
/-! PROOF. The response word and the numbering of the status codes (30_encoding.md R58,
60_exceptions.md R160). -/

namespace Sys2Proof.Machine

/-- The status a code stands for; 7 and 15 stand for none (60_exceptions.md R160). -/
def statusOfCode (c : BitVec 4) : Option Status :=
  match c with
  | 0 => some .ok
  | 1 => some .eBounds
  | 2 => some .eInvalidArg
  | 3 => some .eInvariant
  | 4 => some .eAllocFail
  | 5 => some .nTagMismatch
  | 6 => some .nEnd
  | 8 => some .xIllegalCmd
  | 9 => some .xNoPacket
  | 10 => some .xNullRef
  | 11 => some .xReadonlyRef
  | 12 => some .xAlreadyAllocated
  | 13 => some .xCountLimit
  | 14 => some .xTsReserved
  | _ => none

/-- A status is read back from its code. -/
theorem statusOfCode_code (c : Status) : statusOfCode c.code = some c := by cases c <;> rfl

theorem code_injective {c d : Status} (h : c.code = d.code) : c = d := by
  have hread := congrArg statusOfCode h
  rw [statusOfCode_code, statusOfCode_code] at hread
  exact Option.some.inj hread

/-- A code that stands for no status is the code of none. -/
theorem code_ne_of_statusOfCode_eq_none {k : BitVec 4} (hk : statusOfCode k = none) (c : Status) :
    c.code ≠ k := by
  rintro rfl
  rw [statusOfCode_code] at hk
  cases hk

/-- Settles O5: the word is a concatenation, and the codes are told apart by reading them back. -/
theorem responseWordLayout : Obligations.ResponseWordLayout :=
  ⟨fun _ => ⟨BitVec.extractLsb'_append_eq_left, BitVec.extractLsb'_append_eq_right⟩,
    fun _ _ => code_injective,
    fun c => ⟨code_ne_of_statusOfCode_eq_none rfl c, code_ne_of_statusOfCode_eq_none rfl c⟩,
    rfl, rfl, rfl, rfl, rfl, rfl, rfl, rfl, rfl, rfl, rfl, rfl, rfl, rfl⟩

end Sys2Proof.Machine
end

section
/-! PROOF. The fields of a field word as functions: what a getter reads of a word that a setter made. A setter
is described once, bit by bit, and the laws of 40_record_codec.md R81 and R82 are read off that description. -/

namespace Sys2Proof.Machine

/-! ### The masks -/

/-- The mask of the low `len` bits: the form of the three field masks (00_scope.md R5). -/
def lowMask (len : Nat) : Word := BitVec.ofNat 32 (2 ^ len - 1)

theorem getLsbD_lowMask {len j : Nat} (hj : j < 32) : (lowMask len).getLsbD j = decide (j < len) := by
  rw [lowMask, BitVec.getLsbD_ofNat, Nat.testBit_two_pow_sub_one, decide_eq_true hj, Bool.true_and]

/-- The mask leaves a value in range as it is. -/
theorem and_lowMask_of_lt {v : Word} {len : Nat} (hv : v.toNat < 2 ^ len) : v &&& lowMask len = v := by
  refine BitVec.eq_of_getLsbD_eq fun j hj => ?_
  rw [BitVec.getLsbD_and, getLsbD_lowMask hj]
  by_cases hin : j < len
  · simp [hin]
  · have hzero : v.getLsbD j = false :=
      Nat.testBit_lt_two_pow (hv.trans_le (Nat.pow_le_pow_right (by decide) (Nat.le_of_not_lt hin)))
    simp [hzero]

/-! ### The codec's fields as ranges of bits (40_record_codec.md R70) -/

theorem getCore_eq_getField (d : Word) : getCore d = getField 1 (lowMask 5) d := rfl

theorem getChip_eq_getField (d : Word) : getChip d = getField 6 (lowMask 6) d := rfl

theorem getNeuron_eq_getField (d : Word) : getNeuron d = getField 12 (lowMask 20) d := rfl

theorem setCore_eq_setField (d v : Word) : setCore d v = setField 1 (lowMask 5) d v := rfl

theorem setChip_eq_setField (d v : Word) : setChip d v = setField 6 (lowMask 6) d v := rfl

theorem setNeuron_eq_setField (d v : Word) : setNeuron d v = setField 12 (lowMask 20) d v := rfl

/-! ### A field bit by bit -/

/-- Bit `j` of what a getter answers. -/
theorem getLsbD_getField (start len : Nat) (d : Word) (j : Nat) :
    (getField start (lowMask len) d).getLsbD j = (decide (j < len) && d.getLsbD (start + j)) := by
  rw [getField, BitVec.getLsbD_and, BitVec.getLsbD_ushiftRight]
  by_cases hj : j < 32
  · rw [getLsbD_lowMask hj, Bool.and_comm]
  · rw [BitVec.getLsbD_of_ge d (start + j) (by omega), Bool.false_and, Bool.and_false]

/-- A setter takes the bits of its field from the operand and every other bit from the word. -/
theorem getLsbD_setField (start len : Nat) (d v : Word) {j : Nat} (hj : j < 32) :
    (setField start (lowMask len) d v).getLsbD j =
      if start ≤ j ∧ j < start + len then v.getLsbD (j - start) else d.getLsbD j := by
  have hmask : (lowMask len).getLsbD (j - start) = decide (j - start < len) := getLsbD_lowMask (by omega)
  simp only [setField, BitVec.getLsbD_or, BitVec.getLsbD_and, BitVec.getLsbD_not, BitVec.getLsbD_shiftLeft,
    hmask, hj, decide_true, Bool.true_and]
  by_cases hlo : start ≤ j
  · have hhi : j - start < len ↔ j < start + len := by omega
    by_cases hin : j < start + len <;> simp [hlo, hhi, hin, Nat.not_lt.2 hlo]
  · simp [hlo, Nat.lt_of_not_le hlo]

/-! ### What a getter answers -/

/-- A getter answers its range of bits, zero-extended (30_encoding.md R53). -/
theorem zext64_getField (start len : Nat) (d : Word) :
    zext64 (getField start (lowMask len) d) = (d.extractLsb' start len).setWidth 64 := by
  refine BitVec.eq_of_getLsbD_eq fun j hj => ?_
  rw [zext64, BitVec.getLsbD_setWidth, BitVec.getLsbD_setWidth, BitVec.getLsbD_extractLsb', getLsbD_getField]

theorem zext64_getCore (d : Word) : zext64 (getCore d) = (d.extractLsb' 1 5).setWidth 64 :=
  zext64_getField 1 5 d

theorem zext64_getChip (d : Word) : zext64 (getChip d) = (d.extractLsb' 6 6).setWidth 64 :=
  zext64_getField 6 6 d

theorem zext64_getNeuron (d : Word) : zext64 (getNeuron d) = (d.extractLsb' 12 20).setWidth 64 :=
  zext64_getField 12 20 d

/-- The validity mark as a value is bit 0, zero-extended (40_record_codec.md R80). -/
theorem bit64_isValid (d : Word) : bit64 (isValid d) = (d.extractLsb' 0 1).setWidth 64 := by
  have hbit : d.extractLsb' 0 1 = BitVec.ofBool (isValid d) := by
    refine BitVec.eq_of_getLsbD_eq fun j hj => ?_
    obtain rfl : j = 0 := by omega
    simp [isValid]
  rw [hbit]
  cases isValid d <;> rfl

/-! ### The laws of the codec on one field, and on two that share no bit -/

/-- What is set is read back, truncated by the mask, where the field lies in the word. -/
theorem getField_setField_self {start len : Nat} (hfits : start + len ≤ 32) (d v : Word) :
    getField start (lowMask len) (setField start (lowMask len) d v) = v &&& lowMask len := by
  refine BitVec.eq_of_getLsbD_eq fun j hj => ?_
  rw [getLsbD_getField, BitVec.getLsbD_and, getLsbD_lowMask hj]
  by_cases hin : j < len
  · rw [getLsbD_setField start len d v (by omega), if_pos (by omega), Nat.add_sub_cancel_left, Bool.and_comm]
  · simp [hin]

/-- A value in range is read back exactly. -/
theorem getField_setField_of_lt {start len : Nat} (hfits : start + len ≤ 32) (d : Word) {v : Word}
    (hv : v.toNat < 2 ^ len) : getField start (lowMask len) (setField start (lowMask len) d v) = v :=
  (getField_setField_self hfits d v).trans (and_lowMask_of_lt hv)

/-- Setting one field leaves a field beside it as it is. -/
theorem getField_setField_of_disjoint {start len start' len' : Nat} (hfits : start' + len' ≤ 32)
    (hdisjoint : start' + len' ≤ start ∨ start + len ≤ start') (d v : Word) :
    getField start' (lowMask len') (setField start (lowMask len) d v) = getField start' (lowMask len') d := by
  refine BitVec.eq_of_getLsbD_eq fun j hj => ?_
  rw [getLsbD_getField, getLsbD_getField]
  by_cases hin : j < len'
  · rw [getLsbD_setField start len d v (by omega), if_neg (by omega)]
  · simp [hin]

/-- The later of two setters of one field wins. -/
theorem setField_setField (start len : Nat) (d u v : Word) :
    setField start (lowMask len) (setField start (lowMask len) d u) v = setField start (lowMask len) d v := by
  refine BitVec.eq_of_getLsbD_eq fun j hj => ?_
  rw [getLsbD_setField _ _ _ v hj, getLsbD_setField _ _ d u hj, getLsbD_setField _ _ d v hj]
  split_ifs <;> rfl

/-- Settles O26: the three bit ranges lie beside one another in the word, above bit 0. -/
theorem fieldsIndependent : Obligations.FieldsIndependent := by
  intro d v
  simp only [getCore_eq_getField, getChip_eq_getField, getNeuron_eq_getField, setCore_eq_setField,
    setChip_eq_setField, setNeuron_eq_setField]
  refine ⟨?_, ?_, ?_, ?_, ?_, ?_, isValid_setField (by decide) _ d v, isValid_setField (by decide) _ d v,
    isValid_setField (by decide) _ d v⟩ <;>
  exact getField_setField_of_disjoint (by decide) (by decide) d v

end Sys2Proof.Machine
end

section
/-! PROOF. The codec commands on the machine: behind their gates a getter answers a word of the selected record
and a setter stores one (40_record_codec.md R71 to R80, R82). -/

namespace Sys2Proof.Machine

/-! ### The gates of the codec -/

section Gates

variable {s : State} {c : Status}

theorem gateR_of_open (h : gateStatus .R s = none) (k : Result) : gateR s k = k := by rw [gateR_eq, h]

theorem gateR_of_stopped (h : gateStatus .R s = some c) (k : Result) : gateR s k = .next (answering s c 0) := by
  rw [gateR_eq, h]

theorem gateW_of_open (h : gateStatus .W s = none) (k : Result) : gateW s k = k := by rw [gateW_eq, h]

theorem gateW_of_stopped (h : gateStatus .W s = some c) (k : Result) : gateW s k = .next (answering s c 0) := by
  rw [gateW_eq, h]

theorem firstFailing_eq_none_of_append {checks more : List (Bool × Status)}
    (h : firstFailing (checks ++ more) = none) : firstFailing checks = none := by
  induction checks with
  | nil => rfl
  | cons check rest ih =>
    obtain ⟨fails, c⟩ := check
    cases fails with
    | true => exact h
    | false => exact ih h

/-- A setter's gate is a getter's gate and one check more (40_record_codec.md R71). -/
theorem gateStatus_R_of_W (h : gateStatus .W s = none) : gateStatus .R s = none :=
  firstFailing_eq_none_of_append (more := [(!s.sel.w, .xReadonlyRef)]) h

end Gates

/-! ### The getters -/

section Getters

variable {s : State} {c : Status}

theorem getFromData_of_open (h : gateStatus .R s = none) (hcur : s.curInPacket) (f : Word → Value) :
    getFromData s f = .next (answering s .ok (f (s.dataOf s.cur))) := by
  rw [getFromData, gateR_of_open h, readData_of_lt hcur, orFault_ok, respond_eq_answering]

theorem getFromData_of_stopped (h : gateStatus .R s = some c) (f : Word → Value) :
    getFromData s f = .next (answering s c 0) :=
  gateR_of_stopped h _

theorem execGetts_of_open (h : gateStatus .R s = none) (hcur : s.curInPacket) {w : Word}
    (hts : s.tsOf s.cur = w) : execGetts s = .next (answering s .ok (sext64 w)) := by
  rw [execGetts, gateR_of_open h, readTs_of_lt hcur, orFault_ok, hts, respond_eq_answering]

end Getters

/-- Sign extension keeps the signed value (40_record_codec.md R78). -/
theorem toInt_sext64 (w : Word) : (sext64 w).toInt = w.toInt := BitVec.toInt_signExtend_of_le (by decide)

/-- Settles O22: behind the gate each getter answers its field of the selected field word, which is its bit
range. -/
theorem fieldReads : Obligations.FieldReads := by
  refine ⟨⟨decode_encode (i := .getcore) rfl, decode_encode (i := .getchip) rfl,
    decode_encode (i := .getneuron) rfl, decode_encode (i := .isvalid) rfl⟩, fun s hgate hcur => ?_,
    fun s c hgate => ?_⟩
  · rw [← zext64_getCore, ← zext64_getChip, ← zext64_getNeuron, ← bit64_isValid]
    exact ⟨getFromData_of_open hgate hcur _, getFromData_of_open hgate hcur _, getFromData_of_open hgate hcur _,
      getFromData_of_open hgate hcur _⟩
  · simp only [List.forall_mem_cons]
    exact ⟨getFromData_of_stopped hgate _, getFromData_of_stopped hgate _, getFromData_of_stopped hgate _,
      getFromData_of_stopped hgate _, nofun⟩

/-- Settles O24: behind the gate the answer is the timestamp word of the selected slot, which can be read. -/
theorem timestampRead : Obligations.TimestampRead :=
  ⟨decode_encode (i := .getts) rfl,
    fun s hgate hcur => ⟨execGetts_of_open hgate hcur rfl, toInt_sext64 (s.tsOf s.cur)⟩,
    fun _ _ hgate => gateR_of_stopped hgate _⟩

/-! ### The setters -/

/-- A command that completes once it has written one word has stored that word and nothing else. -/
theorem storesWord_of_exec_eq {i : Instr} {s : State} {a : Nat} {w : Word} (hm : s.mem.wf = true)
    (h : exec i s = .next (({ s with mem := s.mem.writeWord a w } : State).respond 0)) :
    storesWord i s a w s.hdr :=
  ⟨_, h, rfl, s.mem.word_writeWord_self a w hm, fun b hb => s.mem.read_writeWord_of_outside a b w hb, rfl, rfl⟩

section Setters

variable {s : State} {c : Status}

theorem setInData_of_open (h : gateStatus .W s = none) (hcur : s.curInPacket) (f : Word → Word) :
    setInData s f =
      .next (({ s with mem := s.mem.writeWord (dataAddr s.cur) (f (s.dataOf s.cur)) } : State).respond 0) := by
  rw [setInData, gateW_of_open h, modifyData_of_lt f id hcur, id_eq]

theorem setInData_of_stopped (h : gateStatus .W s = some c) (f : Word → Word) :
    setInData s f = .next (answering s c 0) :=
  gateW_of_stopped h _

theorem execSetts_of_negative (h : gateStatus .W s = none) {v : Word} (hv : v.toInt < 0) :
    execSetts v s = .next (reporting s .eInvalidArg v) := by
  rw [execSetts, gateW_of_open h, toS32, if_pos hv, raise_eq_reporting _ _ _ rfl]

theorem execSetts_of_nonneg (h : gateStatus .W s = none) (hcur : s.curInPacket) {v : Word} (hv : 0 ≤ v.toInt) :
    execSetts v s = .next (({ s with mem := s.mem.writeWord (tsAddr s.cur) v } : State).respond 0) := by
  rw [execSetts, gateW_of_open h, toS32, if_neg (Int.not_lt.2 hv), writeTs_of_lt v hcur, orFault_ok]

end Setters

/-- Settles O23: each setter writes its field into the selected field word; the mask it clears with is the
complement of the field's bits (30_encoding.md R50). -/
theorem fieldWrites : Obligations.FieldWrites := by
  refine ⟨fun v => ⟨decode_encode (i := .setcore v) rfl, decode_encode (i := .setchip v) rfl,
    decode_encode (i := .setneuron v) rfl⟩, fun s v hgate hcur hm => ?_, fun s v c hgate => ?_⟩
  · have hcore : 0xFFFFFFC1#32 = ~~~(coreMask <<< coreShift) := by decide
    have hchip : 0xFFFFF03F#32 = ~~~(chipMask <<< chipShift) := by decide
    have hneuron : 0x00000FFF#32 = ~~~(neuronMask <<< neuronShift) := by decide
    rw [hcore, hchip, hneuron]
    exact ⟨storesWord_of_exec_eq hm (setInData_of_open hgate hcur fun d => setCore d v),
      storesWord_of_exec_eq hm (setInData_of_open hgate hcur fun d => setChip d v),
      storesWord_of_exec_eq hm (setInData_of_open hgate hcur fun d => setNeuron d v)⟩
  · simp only [List.forall_mem_cons]
    exact ⟨setInData_of_stopped hgate _, setInData_of_stopped hgate _, setInData_of_stopped hgate _, nofun⟩

/-- Settles O25: behind the gate the sign of the operand decides between the report and the write. -/
theorem timestampWrite : Obligations.TimestampWrite :=
  ⟨fun v => decode_encode (i := .setts v) rfl, fun _ _ hgate hv => execSetts_of_negative hgate hv,
    fun _ _ hgate hcur hm hv => storesWord_of_exec_eq hm (execSetts_of_nonneg hgate hcur hv),
    fun _ _ _ hgate => gateW_of_stopped hgate _⟩

/-! ### What is set is read back -/

/-- A timestamp that `SETTS` accepts is the one `GETTS` answers: the write touches neither what the
gate tests nor the selection (40_record_codec.md R82). -/
theorem getts_after_setts {s : State} {v : Word} (hgate : gateStatus .W s = none) (hcur : s.curInPacket)
    (hm : s.mem.wf = true) (hv : 0 ≤ v.toInt) :
    ∃ t, exec (.setts v) s = .next t ∧ exec .getts t = .next (answering t .ok (v.signExtend 64)) ∧
      (v.signExtend 64).toInt = v.toInt := by
  refine ⟨_, execSetts_of_nonneg hgate hcur hv, execGetts_of_open ?gate ?cur ?ts, toInt_sext64 v⟩
  case gate => exact gateStatus_R_of_W hgate
  case cur => exact hcur
  case ts => exact s.mem.word_writeWord_self (tsAddr s.cur) v hm

/-- Settles O27: the laws of one field for the three fields, and `GETTS` after `SETTS`. -/
theorem fieldRoundTrip : Obligations.FieldRoundTrip := by
  refine ⟨fun d v => ?_, fun d u v => ?_, fun _ _ => getts_after_setts⟩
  · simp only [getCore_eq_getField, getChip_eq_getField, getNeuron_eq_getField, setCore_eq_setField,
      setChip_eq_setField, setNeuron_eq_setField]
    exact ⟨getField_setField_self (by decide) d v, getField_setField_self (by decide) d v,
      getField_setField_self (by decide) d v,
      fun hv => getField_setField_of_lt (by decide) d (Nat.lt_succ_of_le hv),
      fun hv => getField_setField_of_lt (by decide) d (Nat.lt_succ_of_le hv),
      fun hv => getField_setField_of_lt (by decide) d (Nat.lt_succ_of_le hv)⟩
  · simp only [setCore_eq_setField, setChip_eq_setField, setNeuron_eq_setField]
    exact ⟨setField_setField 1 5 d u v, setField_setField 6 6 d u v, setField_setField 12 20 d u v⟩

end Sys2Proof.Machine
end

section
/-! PROOF. The validity bookkeeping commands: what `VALIDATE` and `INVALIDATE` do to the selected record and the
counters, and the accounting of their sequences over distinct slots (41_validity_bookkeeping.md R91 to R93). -/

namespace Sys2Proof.Machine

/-! ### The two commands on the selected record -/

/-- A command that completes once it has written one word and the header has stored that word, left the header
registers so, and changed nothing else. -/
theorem storesWord_of_exec_eq_setHdr {i : Instr} {s : State} {a : Nat} {w : Word} {h : Header}
    (hm : s.mem.wf = true)
    (hexec : exec i s = .next ((({ s with mem := s.mem.writeWord a w } : State).setHdr h).respond 0)) :
    storesWord i s a w h :=
  ⟨_, hexec, rfl, s.mem.word_writeWord_self a w hm, fun b hb => s.mem.read_writeWord_of_outside a b w hb, rfl,
    rfl⟩

section Commands

variable {s : State} (hgate : gateStatus .W s = none) (hcur : s.curInPacket)

include hgate hcur

theorem execValidate_of_valid (hmark : isValid (s.dataOf s.cur) = true) :
    execValidate s = .next (reporting s .eInvariant s.curWord) := by
  rw [execValidate, gateW_of_open hgate, readData_of_lt hcur, orFault_ok, if_pos hmark,
    raise_eq_reporting _ _ _ rfl]

theorem execValidate_of_full (hmark : isValid (s.dataOf s.cur) = false)
    (hfull : toU32 s.hdr.cap ≤ toU32 s.hdr.evcnt) : execValidate s = .next (answering s .xCountLimit 0) := by
  rw [execValidate, gateW_of_open hgate, readData_of_lt hcur, orFault_ok, if_neg (Bool.eq_false_iff.1 hmark),
    if_pos hfull, refuse, raise_eq_answering _ _ _ rfl]

theorem execValidate_of_room (hmark : isValid (s.dataOf s.cur) = false)
    (hroom : toU32 s.hdr.evcnt < toU32 s.hdr.cap) :
    execValidate s = .next ((State.countIn
      { s with mem := s.mem.writeWord (dataAddr s.cur) (markValid (s.dataOf s.cur)) }).respond 0) := by
  rw [execValidate, gateW_of_open hgate, readData_of_lt hcur, orFault_ok, if_neg (Bool.eq_false_iff.1 hmark),
    if_neg (Nat.not_le.2 hroom), modifyData_of_lt markValid State.countIn hcur]

theorem execInvalidate_of_invalid (hmark : isValid (s.dataOf s.cur) = false) :
    execInvalidate s = .next (reporting s .eInvariant s.curWord) := by
  rw [execInvalidate, gateW_of_open hgate, readData_of_lt hcur, orFault_ok, hmark, if_pos Bool.not_false,
    raise_eq_reporting _ _ _ rfl]

theorem execInvalidate_of_zero (hmark : isValid (s.dataOf s.cur) = true) (hzero : toU32 s.hdr.valcnt = 0) :
    execInvalidate s = .next (answering s .xCountLimit 0) := by
  rw [execInvalidate, gateW_of_open hgate, readData_of_lt hcur, orFault_ok, hmark, if_neg (by decide),
    if_pos hzero, refuse, raise_eq_answering _ _ _ rfl]

theorem execInvalidate_of_counted (hmark : isValid (s.dataOf s.cur) = true) (hsome : toU32 s.hdr.valcnt ≠ 0) :
    execInvalidate s = .next ((State.countOut
      { s with mem := s.mem.writeWord (dataAddr s.cur) (markInvalid (s.dataOf s.cur)) }).respond 0) := by
  rw [execInvalidate, gateW_of_open hgate, readData_of_lt hcur, orFault_ok, hmark, if_neg (by decide),
    if_neg hsome, modifyData_of_lt markInvalid State.countOut hcur]

end Commands

/-- Settles O30: behind the gate the mark decides first and the room for one more record second. -/
theorem validateEffect : Obligations.ValidateEffect :=
  ⟨decode_encode (i := .validate) rfl, fun _ hgate hcur hmark => execValidate_of_valid hgate hcur hmark,
    fun _ hgate hcur hmark hfull => execValidate_of_full hgate hcur hmark hfull,
    fun _ hgate hcur hm hmark hroom =>
      storesWord_of_exec_eq_setHdr hm (execValidate_of_room hgate hcur hmark hroom),
    fun _ _ hgate => gateW_of_stopped hgate _⟩

/-- Settles O31: behind the gate the mark decides first and the valid count second. -/
theorem invalidateEffect : Obligations.InvalidateEffect :=
  ⟨decode_encode (i := .invalidate) rfl, fun _ hgate hcur hmark => execInvalidate_of_invalid hgate hcur hmark,
    fun _ hgate hcur hmark hzero => execInvalidate_of_zero hgate hcur hmark (congrArg toU32 hzero),
    fun _ hgate hcur hm hmark hsome =>
      storesWord_of_exec_eq_setHdr hm
        (execInvalidate_of_counted hgate hcur hmark fun hzero => hsome (BitVec.eq_of_toNat_eq hzero)),
    fun _ _ hgate => gateW_of_stopped hgate _⟩

end Sys2Proof.Machine
end

section
/-! PROOF. The accounting property of the bookkeeping (41_validity_bookkeeping.md R93): `Accounts` says which slots
of a packet are Valid and what the counters hold; one rule per round of a sequence moves it from state to state. -/

namespace Sys2Proof.Machine

/-! ### Sequences of commands -/

theorem execAll_cons {i : Instr} {s t : State} (h : exec i s = .next t) (is : List Instr) :
    execAll (i :: is) s = execAll is t := by
  simp only [execAll, h]

theorem execAll_pair {i j : Instr} {s t u : State} (hi : exec i s = .next t) (hj : exec j t = .next u) :
    execAll [i, j] s = .next u :=
  (execAll_cons hi [j]).trans (execAll_cons hj [])

theorem execAll_append {is : List Instr} {s t : State} (h : execAll is s = .next t) (js : List Instr) :
    execAll (is ++ js) s = execAll js t := by
  induction is generalizing s with
  | nil => rw [← Host.Outcome.next.inj h, List.nil_append]
  | cons i is ih =>
    cases hi : exec i s with
    | next u =>
      rw [execAll_cons hi] at h
      rw [List.cons_append, execAll_cons hi, ih h]
    | fault | refused => simp only [execAll, hi, reduceCtorEq] at h

theorem validateSlots_cons (k : Nat) (ks : List Nat) :
    validateSlots (k :: ks) = [.getevent (BitVec.ofNat 32 k), .validate] ++ validateSlots ks :=
  List.flatMap_cons

theorem invalidateSlots_cons (j : Nat) (js : List Nat) :
    invalidateSlots (j :: js) = [.getevent (BitVec.ofNat 32 j), .invalidate] ++ invalidateSlots js :=
  List.flatMap_cons

/-- Between two states of a run every command was answered `OK` and nothing was reported. -/
structure AnsweredOk (s t : State) : Prop where
  responses : ∃ rs, t.responses = s.responses ++ rs ∧ ∀ r ∈ rs, r.status = .ok
  log : t.log = s.log

namespace AnsweredOk

theorem refl (s : State) : AnsweredOk s s := ⟨⟨[], (List.append_nil _).symm, nofun⟩, rfl⟩

theorem trans {s t u : State} (hst : AnsweredOk s t) (htu : AnsweredOk t u) : AnsweredOk s u := by
  obtain ⟨⟨rs, ht, hrs⟩, hlog⟩ := hst
  obtain ⟨⟨rs', hu, hrs'⟩, hlog'⟩ := htu
  refine ⟨⟨rs ++ rs', by rw [hu, ht, List.append_assoc], fun r hr => ?_⟩, hlog'.trans hlog⟩
  exact (List.mem_append.1 hr).elim (hrs r) (hrs' r)

/-- One command that answers once it has written something other than the histories. -/
theorem of_respond {s t : State} (v : Value) (hresponses : t.responses = s.responses) (hlog : t.log = s.log) :
    AnsweredOk s (t.respond v) :=
  ⟨⟨_, by rw [State.respond_responses, hresponses], fun r hr => by rw [List.mem_singleton.1 hr]⟩, hlog⟩

end AnsweredOk

/-! ### The selection of a slot -/

/-- A slot index of a packet is the same number as an operand (00_scope.md R6). -/
theorem toU32_ofNat {k : Nat} (hk : k < 2 ^ 31) : toU32 (BitVec.ofNat 32 k) = k :=
  (BitVec.toNat_ofNat k 32).trans (Nat.mod_eq_of_lt (by omega))

/-- `s` with slot `k` selected through a mutable reference and the index answered. -/
def State.pick (s : State) (k : Nat) : State := (s.select true k).respond (zext64 (BitVec.ofNat 32 k))

theorem answeredOk_pick (s : State) (k : Nat) : AnsweredOk s (s.pick k) := .of_respond _ rfl rfl

theorem cur_pick (s : State) {k : Nat} (hk : k < 2 ^ 31) : (s.pick k).cur = k :=
  (BitVec.toNat_ofNat k 31).trans (Nat.mod_eq_of_lt hk)

theorem curWord_pick (s : State) {k : Nat} (hk : k < 2 ^ 31) : (s.pick k).curWord = BitVec.ofNat 32 k :=
  BitVec.setWidth_ofNat_of_le_of_lt (by decide) hk

theorem gateP_of_open {s : State} (h : gateStatus .P s = none) (k : Result) : gateP s k = k := by rw [gateP_eq, h]

theorem exec_getevent_of_lt {s : State} (hp : s.pkt = true) (htag : s.hdr.type = s.params.spikeEventTag)
    {k : Nat} (hk : k < 2 ^ 31) (hslot : k < toU32 s.hdr.cap) :
    exec (.getevent (BitVec.ofNat 32 k)) s = .next (s.pick k) := by
  have hopen : gateStatus .P s = none := by simp [gateStatus, gateChecks, firstFailing, hp, htag]
  have hnat := toU32_ofNat hk
  have hint : toS32 (BitVec.ofNat 32 k) = k := by rw [toS32_eq_toU32 (by omega), hnat]
  change execGetevent _ s = _
  rw [execGetevent, gateP_of_open hopen, hint, hnat]
  exact if_neg (by omega)

/-! ### The accounts of a packet -/

/-- A packet of `n` slots whose Valid slots are those of `valid`, counted by `HDR.VALCNT`, and whose `HDR.EVCNT`
is `e`. -/
structure Accounts (n : Word) (e : Nat) (valid : Finset Nat) (s : State) : Prop where
  pkt : s.pkt = true
  tag : s.hdr.type = s.params.spikeEventTag
  cap : s.hdr.cap = n
  cap_lt : toU32 n < 2 ^ 31
  mem_wf : s.mem.wf = true
  marks : ∀ i < toU32 n, isValid (s.dataOf i) = decide (i ∈ valid)
  evcnt : toU32 s.hdr.evcnt = e
  valcnt : toU32 s.hdr.valcnt = valid.card
  valcnt_le : valid.card ≤ e

theorem toU32_lt_of_toS32_nonneg {w : Word} (h : 0 ≤ toS32 w) : toU32 w < 2 ^ 31 := by
  have hmsb := BitVec.toInt_pos_iff.1 h
  unfold toU32
  omega

/-- A creation that fits does not fail: the sizes on unbounded integers are those on naturals
(44_access_alloc_header.md R131). -/
theorem allocFails_of_allocFits {p : Params} {cap : Word} (h : allocFits p cap) : allocFails p cap = false := by
  obtain ⟨hsign, hmax, hsize⟩ := h
  have hpow : (2 : Int) ^ p.sizeBits = ((2 ^ p.sizeBits : Nat) : Int) := by norm_cast
  rw [toS32_eq_toU32 (toU32_lt_of_toS32_nonneg hsign)] at hmax hsize
  rw [hpow] at hsize
  have hbytes : ¬2 ^ p.sizeBits - 1 < imageSize p (toU32 cap) := by
    unfold imageSize
    omega
  rw [allocFails, decide_eq_false (by omega), decide_eq_false (by omega), decide_eq_false hbytes]
  rfl

/-- A created packet has no Valid slot and both counters at 0 (44_access_alloc_header.md R131). -/
theorem accounts_alloc {s : State} {n : Word} (hm : s.mem.wf = true) (hp : s.pkt = false)
    (hfits : allocFits s.params n) :
    ∃ t, exec (.alloc n) s = .next t ∧ AnsweredOk s t ∧ Accounts n 0 ∅ t := by
  have ⟨hsign, _⟩ := hfits
  refine ⟨(s.create n).respond (BitVec.ofNat 64 (imageSize s.params (toU32 n))), ?_, .of_respond _ rfl rfl, ?_⟩
  · change execAlloc n s = _
    rw [execAlloc, gateA, hp, if_neg Bool.false_ne_true, allocFails_of_allocFits hfits, if_neg Bool.false_ne_true]
  · exact
      { pkt := rfl, tag := rfl, cap := rfl, cap_lt := toU32_lt_of_toS32_nonneg hsign
        mem_wf := Memory.clearBelow_wf _ _ hm
        marks := fun i hi => congrArg isValid (dataOf_create (s := s) hi)
        evcnt := rfl, valcnt := rfl, valcnt_le := le_rfl }

namespace Accounts

variable {n : Word} {e k : Nat} {valid : Finset Nat} {s : State}

section Picked

variable (h : Accounts n e valid s) (hk : k < toU32 n)

include h hk

theorem index_lt : k < 2 ^ 31 := hk.trans h.cap_lt

theorem exec_getevent : exec (.getevent (BitVec.ofNat 32 k)) s = .next (s.pick k) :=
  exec_getevent_of_lt h.pkt h.tag (h.index_lt hk) (by rwa [h.cap])

theorem cur_eq : (s.pick k).cur = k := cur_pick s (h.index_lt hk)

omit hk in
theorem gateStatus_pick : gateStatus .W (s.pick k) = none := by
  simp [gateStatus, gateChecks, firstFailing, State.pick, h.pkt, h.tag]

theorem curInPacket_pick : (s.pick k).curInPacket := by
  change (s.pick k).cur < toU32 s.hdr.cap
  rwa [h.cur_eq hk, h.cap]

theorem isValid_pick : isValid ((s.pick k).dataOf (s.pick k).cur) = decide (k ∈ valid) := by
  rw [h.cur_eq hk]
  exact h.marks k hk

/-! #### One round of a sequence -/

/-- The marks after the picked slot's field word is written with a mark that makes the Valid slots `valid'`. -/
theorem marks_writeWord {valid' : Finset Nat} {w : Word} (hself : isValid w = decide (k ∈ valid'))
    (hother : ∀ i ≠ k, (i ∈ valid' ↔ i ∈ valid)) (i : Nat) (hi : i < toU32 n) :
    isValid (({ s.pick k with mem := s.mem.writeWord (dataAddr (s.pick k).cur) w } : State).dataOf i) =
      decide (i ∈ valid') := by
  rw [h.cur_eq hk]
  refine (isValid_dataOf_writeData (s := s.pick k) h.mem_wf k i w).trans ?_
  split_ifs with hik
  · rw [hself, hik]
  · exact (h.marks i hi).trans (decide_eq_decide.2 (hother i hik).symm)

/-- Validating an Invalid slot of a packet with room makes it Valid and counts it (R91). -/
theorem validate (hnew : k ∉ valid) (hroom : e < toU32 n) :
    ∃ t, execAll [.getevent (BitVec.ofNat 32 k), .validate] s = .next t ∧ AnsweredOk s t ∧
      Accounts n (e + 1) (insert k valid) t := by
  have hbelow := h.cap_lt
  have hle := h.valcnt_le
  have hevcnt := h.evcnt
  have hvalcnt := h.valcnt
  have hspace : toU32 s.hdr.evcnt < toU32 s.hdr.cap := by rwa [hevcnt, h.cap]
  have hexec := execValidate_of_room h.gateStatus_pick (h.curInPacket_pick hk)
    ((h.isValid_pick hk).trans (decide_eq_false hnew)) hspace
  refine ⟨_, execAll_pair (h.exec_getevent hk) hexec, (answeredOk_pick s k).trans (.of_respond _ rfl rfl), ?_⟩
  exact
    { pkt := h.pkt, tag := h.tag, cap := h.cap, cap_lt := h.cap_lt
      mem_wf := Memory.writeWord_wf _ _ _ h.mem_wf
      marks := h.marks_writeWord hk (by simp [isValid_markValid]) fun i hi => by simp [hi]
      evcnt := (toU32_add_one (w := s.hdr.evcnt) (by omega)).trans (by rw [hevcnt])
      valcnt := (toU32_add_one (w := s.hdr.valcnt) (by omega)).trans
        (by rw [hvalcnt, Finset.card_insert_of_notMem hnew])
      valcnt_le := by rw [Finset.card_insert_of_notMem hnew]; omega }

/-- Invalidating a Valid slot makes it Invalid and takes it off the valid count only (R92). -/
theorem invalidate (hold : k ∈ valid) :
    ∃ t, execAll [.getevent (BitVec.ofNat 32 k), .invalidate] s = .next t ∧ AnsweredOk s t ∧
      Accounts n e (valid.erase k) t := by
  have hsome : toU32 s.hdr.valcnt ≠ 0 := h.valcnt ▸ Finset.card_ne_zero_of_mem hold
  have hexec := execInvalidate_of_counted h.gateStatus_pick (h.curInPacket_pick hk)
    ((h.isValid_pick hk).trans (decide_eq_true hold)) hsome
  refine ⟨_, execAll_pair (h.exec_getevent hk) hexec, (answeredOk_pick s k).trans (.of_respond _ rfl rfl), ?_⟩
  exact
    { pkt := h.pkt, tag := h.tag, cap := h.cap, cap_lt := h.cap_lt
      mem_wf := Memory.writeWord_wf _ _ _ h.mem_wf
      marks := h.marks_writeWord hk (by simp [isValid_markInvalid]) fun i hi => by simp [hi]
      evcnt := h.evcnt
      valcnt := (toU32_sub_one hsome).trans (by rw [h.valcnt, Finset.card_erase_of_mem hold])
      valcnt_le := Finset.card_erase_le.trans h.valcnt_le }

/-- The round of a command that finds the picked slot in the wrong state is reported and leaves the header. -/
theorem reported {i : Instr}
    (hexec : exec i (s.pick k) = .next (reporting (s.pick k) .eInvariant (s.pick k).curWord)) :
    ∃ t, execAll [.getevent (BitVec.ofNat 32 k), i] s = .next t ∧ t.hdr = s.hdr ∧
      t.log = s.log ++ [{ severity := .critical, code := .eInvariant, info := BitVec.ofNat 32 k }] := by
  rw [curWord_pick s (h.index_lt hk)] at hexec
  exact ⟨_, execAll_pair (h.exec_getevent hk) hexec, rfl, rfl⟩

/-- Validating a Valid slot is reported and leaves the header (R91). -/
theorem validate_again (hold : k ∈ valid) :
    ∃ t, execAll [.getevent (BitVec.ofNat 32 k), .validate] s = .next t ∧ t.hdr = s.hdr ∧
      t.log = s.log ++ [{ severity := .critical, code := .eInvariant, info := BitVec.ofNat 32 k }] :=
  h.reported hk (execValidate_of_valid h.gateStatus_pick (h.curInPacket_pick hk)
    ((h.isValid_pick hk).trans (decide_eq_true hold)))

/-- Invalidating an Invalid slot is reported and leaves the header (R92). -/
theorem invalidate_again (hgone : k ∉ valid) :
    ∃ t, execAll [.getevent (BitVec.ofNat 32 k), .invalidate] s = .next t ∧ t.hdr = s.hdr ∧
      t.log = s.log ++ [{ severity := .critical, code := .eInvariant, info := BitVec.ofNat 32 k }] :=
  h.reported hk (execInvalidate_of_invalid h.gateStatus_pick (h.curInPacket_pick hk)
    ((h.isValid_pick hk).trans (decide_eq_false hgone)))

end Picked

/-! #### The sequences -/

/-- Validating distinct Invalid slots, no more than there is room for, makes them Valid and counts each. -/
theorem execAll_validateSlots {ks : List Nat} (h : Accounts n e valid s) (hdistinct : ks.Nodup)
    (hslots : ∀ k ∈ ks, k < toU32 n) (hnew : ∀ k ∈ ks, k ∉ valid) (hroom : e + ks.length ≤ toU32 n) :
    ∃ t, execAll (validateSlots ks) s = .next t ∧ AnsweredOk s t ∧
      Accounts n (e + ks.length) (valid ∪ ks.toFinset) t := by
  induction ks generalizing s e valid with
  | nil => exact ⟨s, rfl, .refl s, by simpa using h⟩
  | cons k ks ih =>
    obtain ⟨hfresh, hdistinct⟩ := List.nodup_cons.1 hdistinct
    obtain ⟨hslot, hslots⟩ := List.forall_mem_cons.1 hslots
    obtain ⟨hnewk, hnew⟩ := List.forall_mem_cons.1 hnew
    rw [List.length_cons] at hroom
    obtain ⟨t, ht, hokt, hacct⟩ := h.validate hslot hnewk (by omega)
    have hnew' : ∀ j ∈ ks, j ∉ insert k valid := fun j hj hmem =>
      (Finset.mem_insert.1 hmem).elim (fun heq => hfresh (heq ▸ hj)) (hnew j hj)
    obtain ⟨u, hu, hoku, haccu⟩ := ih hacct hdistinct hslots hnew' (by omega)
    refine ⟨u, ?_, hokt.trans hoku, ?_⟩
    · rw [validateSlots_cons, execAll_append ht, hu]
    · rwa [List.length_cons, List.toFinset_cons, Finset.union_insert, ← Finset.insert_union,
        Nat.add_comm ks.length, ← Nat.add_assoc]

/-- Invalidating distinct Valid slots makes them Invalid and takes each off the valid count. -/
theorem execAll_invalidateSlots {js : List Nat} (h : Accounts n e valid s) (hdistinct : js.Nodup)
    (hslots : ∀ j ∈ js, j < toU32 n) (hold : ∀ j ∈ js, j ∈ valid) :
    ∃ t, execAll (invalidateSlots js) s = .next t ∧ AnsweredOk s t ∧
      Accounts n e (valid \ js.toFinset) t := by
  induction js generalizing s valid with
  | nil => exact ⟨s, rfl, .refl s, by simpa using h⟩
  | cons j js ih =>
    obtain ⟨hfresh, hdistinct⟩ := List.nodup_cons.1 hdistinct
    obtain ⟨hslot, hslots⟩ := List.forall_mem_cons.1 hslots
    obtain ⟨holdj, hold⟩ := List.forall_mem_cons.1 hold
    obtain ⟨t, ht, hokt, hacct⟩ := h.invalidate hslot holdj
    have hold' : ∀ k ∈ js, k ∈ valid.erase j := fun k hk =>
      Finset.mem_erase.2 ⟨fun heq => hfresh (heq ▸ hk), hold k hk⟩
    obtain ⟨u, hu, hoku, haccu⟩ := ih hacct hdistinct hslots hold'
    refine ⟨u, ?_, hokt.trans hoku, ?_⟩
    · rw [invalidateSlots_cons, execAll_append ht, hu]
    · rwa [List.toFinset_cons, Finset.sdiff_insert, ← Finset.erase_sdiff_comm]

end Accounts

/-- Distinct slots of a packet are no more than it has. -/
theorem length_le_of_slots {ks : List Nat} {n : Nat} (hdistinct : ks.Nodup) (hslots : ∀ k ∈ ks, k < n) :
    ks.length ≤ n := by
  have hsub : ks ⊆ List.range n := fun k hk => List.mem_range.2 (hslots k hk)
  simpa using (List.subperm_of_subset hdistinct hsub).length_le

/-- Settles O32: the accounts of the created packet, moved through the two sequences, tell the counters and which
slots a repeat finds Valid and which Invalid. -/
theorem accountingOverDistinctSlots : Obligations.AccountingOverDistinctSlots := by
  intro s n ks js _ hm hp hfits hks hslots hjs hsub
  obtain ⟨r, hr, hokr, haccr⟩ := accounts_alloc hm hp hfits
  obtain ⟨t, ht, hokt, hacct⟩ := haccr.execAll_validateSlots hks hslots (fun k _ => Finset.notMem_empty k)
    ((Nat.zero_add _).trans_le (length_le_of_slots hks hslots))
  rw [Nat.zero_add, Finset.empty_union] at hacct
  obtain ⟨u, hu, hoku, haccu⟩ := hacct.execAll_invalidateSlots hjs (fun j hj => hslots j (hsub j hj))
    fun j hj => List.mem_toFinset.2 (hsub j hj)
  have hst := hokr.trans hokt
  have hvalid : ks.toFinset.card = ks.length := List.toFinset_card_of_nodup hks
  have hleft : (ks.toFinset \ js.toFinset).card = ks.length - js.length := by
    rw [Finset.card_sdiff_of_subset fun j hj => List.mem_toFinset.2 (hsub j (List.mem_toFinset.1 hj)), hvalid,
      List.toFinset_card_of_nodup hjs]
  refine ⟨t, u, (execAll_cons hr _).trans ht, hu, hst.responses, hoku.responses, hst.log, hoku.log.trans hst.log,
    hacct.evcnt, hacct.valcnt.trans hvalid, haccu.evcnt, haccu.valcnt.trans hleft, fun k hk => ?_, fun j hj => ?_⟩
  · exact hacct.validate_again (hslots k hk) (List.mem_toFinset.2 hk)
  · exact haccu.invalidate_again (hslots j (hsub j hj)) fun hmem =>
      (Finset.mem_sdiff.1 hmem).2 (List.mem_toFinset.2 hj)

end Sys2Proof.Machine
end

section
/-! PROOF. The 64-bit timestamp: the overflow counter and the timestamp share no bit of the word, so it is their
sum, and `GETTS64` answers it behind its gate (42_timestamp64.md R100 to R103). -/

namespace Sys2Proof.Machine

/-! ### The reconstruction as a sum (42_timestamp64.md R100) -/

section Reconstruction

variable {ovf ts : Word}

/-- A timestamp whose reserved bit is clear lies below the place of the overflow counter. -/
theorem toNat_lt_of_tsReserved_eq_false (h : tsReserved ts = false) : ts.toNat < 2 ^ 31 := by
  have hmsb : ts.msb = false := (BitVec.msb_eq_getLsbD_last ts).trans h
  have hdouble := BitVec.msb_eq_false_iff_two_mul_lt.1 hmsb
  omega

theorem toNat_ts64 (h : tsReserved ts = false) : (ts64 ovf ts).toNat = ovf.toNat * 2 ^ 31 + ts.toNat := by
  have hts := toNat_lt_of_tsReserved_eq_false h
  have hovf : ovf.toNat <<< 31 < 2 ^ 64 := by
    rw [Nat.shiftLeft_eq]
    omega
  calc (ts64 ovf ts).toNat = ovf.toNat <<< 31 ||| ts.toNat := by
        rw [ts64, overflowShift, BitVec.toNat_or, BitVec.toNat_shiftLeft,
          BitVec.toNat_setWidth_of_le (by decide), BitVec.toNat_setWidth_of_le (by decide), Nat.mod_eq_of_lt hovf]
    _ = ovf.toNat <<< 31 + ts.toNat := (Nat.shiftLeft_add_eq_or_of_lt hts ovf.toNat).symm
    _ = ovf.toNat * 2 ^ 31 + ts.toNat := by rw [Nat.shiftLeft_eq]

/-- The sum is below `2 ^ 63`, so the signed reading is the sum as well. -/
theorem toInt_ts64 (h : tsReserved ts = false) :
    (ts64 ovf ts).toInt = (ovf.toNat : Int) * 2 ^ 31 + ts.toNat := by
  have hts := toNat_lt_of_tsReserved_eq_false h
  have hsum := toNat_ts64 (ovf := ovf) h
  rw [BitVec.toInt_eq_toNat_of_lt (by omega), hsum]
  norm_cast

/-- The low 31 bits are the remainder of the sum by `2 ^ 31`. -/
theorem extractLsb'_ts64_timestamp (h : tsReserved ts = false) :
    (ts64 ovf ts).extractLsb' 0 31 = ts.extractLsb' 0 31 := by
  refine BitVec.eq_of_toNat_eq ?_
  rw [BitVec.extractLsb'_toNat, BitVec.extractLsb'_toNat, toNat_ts64 h, Nat.shiftRight_zero, Nat.shiftRight_zero,
    Nat.mul_add_mod_self_right]

/-- The 32 bits above them are its quotient. -/
theorem extractLsb'_ts64_overflow (h : tsReserved ts = false) : (ts64 ovf ts).extractLsb' 31 32 = ovf := by
  have hts := toNat_lt_of_tsReserved_eq_false h
  refine BitVec.eq_of_toNat_eq ?_
  rw [BitVec.extractLsb'_toNat, toNat_ts64 h, Nat.shiftRight_eq_div_pow]
  omega

end Reconstruction

/-- One wrap more outweighs every timestamp (42_timestamp64.md R103). -/
theorem toInt_ts64_mono {ovf₁ ts₁ ovf₂ ts₂ : Word} (h₁ : tsReserved ts₁ = false) (h₂ : tsReserved ts₂ = false)
    (hle : ovf₁.toNat < ovf₂.toNat ∨ (ovf₁ = ovf₂ ∧ ts₁.toNat ≤ ts₂.toNat)) :
    (ts64 ovf₁ ts₁).toInt ≤ (ts64 ovf₂ ts₂).toInt := by
  have hts := toNat_lt_of_tsReserved_eq_false h₁
  rw [toInt_ts64 h₁, toInt_ts64 h₂]
  obtain hwrap | ⟨rfl, hsame⟩ := hle <;> omega

/-- Settles O29: both properties are read off the sum form. -/
theorem timestamp64LosslessMonotonic : Obligations.Timestamp64LosslessMonotonic :=
  ⟨fun _ _ h => ⟨extractLsb'_ts64_timestamp h, extractLsb'_ts64_overflow h⟩, fun _ _ _ _ => toInt_ts64_mono⟩

/-! ### The command (42_timestamp64.md R101) -/

section Command

variable {s : State} (hgate : gateStatus .R s = none) (hcur : s.curInPacket)

include hgate hcur

theorem execGetts64_of_reserved (hts : tsReserved (s.tsOf s.cur) = true) :
    execGetts64 s = .next (answering s .xTsReserved 0) := by
  rw [execGetts64, gateR_of_open hgate, readTs_of_lt hcur, orFault_ok, if_pos hts, refuse,
    raise_eq_answering _ _ _ rfl]

theorem execGetts64_of_not_reserved (hts : tsReserved (s.tsOf s.cur) = false) :
    execGetts64 s = .next (answering s .ok (ts64 s.hdr.ovf (s.tsOf s.cur))) := by
  rw [execGetts64, gateR_of_open hgate, readTs_of_lt hcur, orFault_ok, if_neg (Bool.eq_false_iff.1 hts),
    respond_eq_answering]

end Command

/-- Settles O28: behind the gate the reserved bit of the selected timestamp decides between the refusal and the
reconstruction. -/
theorem timestamp64Read : Obligations.Timestamp64Read :=
  ⟨decode_encode (i := .getts64) rfl, fun _ hgate hcur hts => execGetts64_of_reserved hgate hcur hts,
    fun _ hgate hcur hts => ⟨_, execGetts64_of_not_reserved hgate hcur hts, rfl, toInt_ts64 hts⟩,
    fun _ _ hgate => gateR_of_stopped hgate _⟩

end Sys2Proof.Machine
end

section
/-! PROOF. The traversal commands (43_traversal.md R111 to R120): the starts as one operation with three constants,
and one rule per kind of round of `ITNEXT`. -/

namespace Sys2Proof.Machine

theorem gateP_of_stopped {s : State} {c : Status} (h : gateStatus .P s = some c) (k : Result) :
    gateP s k = .next (answering s c 0) := by rw [gateP_eq, h]

/-! ### The start commands (43_traversal.md R111 to R119) -/

theorem exec_startInstr (mutable rev vonly : Bool) (s : State) :
    exec (startInstr mutable rev vonly) s = startTraversal mutable rev vonly s := by
  cases mutable <;> cases rev <;> cases vonly <;> rfl

/-- `s` with the traversal of one strategy begun in one of its forms (43_traversal.md R111). -/
def State.started (s : State) (mutable rev vonly : Bool) : State :=
  { s with
    it := { active := true, rev := rev, vonly := vonly, mutable := mutable,
            pos := if rev then s.hdr.evcnt - 1 else 0 } }

theorem startTraversal_of_open {s : State} (hgate : gateStatus .P s = none) (mutable rev vonly : Bool) :
    startTraversal mutable rev vonly s = .next (answering (s.started mutable rev vonly) .ok 0) :=
  gateP_of_open hgate _

/-- Settles O35: the eight start commands are one operation with three constants, behind the packet gate. -/
theorem traversalStarts : Obligations.TraversalStarts := by
  refine ⟨⟨decode_encode (i := .itfa) rfl, decode_encode (i := .itfv) rfl, decode_encode (i := .itra) rfl,
    decode_encode (i := .itrv) rfl, decode_encode (i := .itfam) rfl, decode_encode (i := .itfvm) rfl,
    decode_encode (i := .itram) rfl, decode_encode (i := .itrvm) rfl⟩, fun s i m r v hgate hi => ?_,
    fun s c hgate i hi => ?_⟩
  · have hstart : i = startInstr m r v := by
      fin_cases hi <;> rfl
    rw [hstart, exec_startInstr]
    exact startTraversal_of_open hgate m r v
  · obtain ⟨m, r, v, rfl⟩ : ∃ m r v, i = startInstr m r v := by
      fin_cases hi
      exacts [⟨false, false, false, rfl⟩, ⟨false, false, true, rfl⟩, ⟨false, true, false, rfl⟩,
        ⟨false, true, true, rfl⟩, ⟨true, false, false, rfl⟩, ⟨true, false, true, rfl⟩,
        ⟨true, true, false, rfl⟩, ⟨true, true, true, rfl⟩]
    rw [exec_startInstr]
    exact gateP_of_stopped hgate _

/-! ### The position of a traversal -/

/-- The end test of R120 holds exactly when no position is left (log entry 12). -/
theorem positionsLeft_eq_zero_iff (s : State) :
    positionsLeft s = 0 ↔
      if s.it.rev then s.it.pos.toInt < 0 else (s.hdr.evcnt.toNat : Int) ≤ s.it.pos.toInt := by
  unfold positionsLeft toS32 toU32
  split <;> omega

/-- The traversal of `s` stands at slot `p` and has not met the end test of its direction (43_traversal.md
R120). -/
structure State.AtSlot (s : State) (p : Nat) : Prop where
  pos : toS32 s.it.pos = (p : Int)
  counted : s.it.rev = false → p < toU32 s.hdr.evcnt
  evcnt_lt : toU32 s.hdr.evcnt < 2 ^ 31

namespace State.AtSlot

variable {s : State} {p : Nat} (h : s.AtSlot p)

include h

theorem pos_eq_ofNat : s.it.pos = BitVec.ofNat 32 p := by
  have hpos : s.it.pos.toInt = (p : Int) := h.pos
  rw [← BitVec.ofInt_toInt (x := s.it.pos), hpos, BitVec.ofInt_natCast]

/-- The position one step down does not wrap, being `-1` at the least. -/
theorem toS32_advance_reverse (hrev : s.it.rev = true) : toS32 s.advance.it.pos = (p : Int) - 1 := by
  have hpos := h.pos
  simp only [State.advance_it, hrev, if_true]
  rw [toS32_sub_one (by omega), hpos]

/-- The position one step up does not wrap, being `HDR.EVCNT` at the most. -/
theorem toS32_advance_forward (hrev : s.it.rev = false) : toS32 s.advance.it.pos = (p : Int) + 1 := by
  have hpos := h.pos
  have hcounted := h.counted hrev
  have hevcnt := h.evcnt_lt
  simp only [State.advance_it, hrev, Bool.false_eq_true, if_false]
  rw [toS32_add_one (by omega), hpos]

theorem positionsLeft_eq_succ : positionsLeft s = positionsLeft s.advance + 1 := by
  have hpos := h.pos
  cases hrev : s.it.rev with
  | true =>
    have hdown := h.toS32_advance_reverse hrev
    have hrev' : s.advance.it.rev = true := hrev
    simp only [positionsLeft, hrev, hrev', if_true]
    omega
  | false =>
    have hup := h.toS32_advance_forward hrev
    have hcounted := h.counted hrev
    have hrev' : s.advance.it.rev = false := hrev
    simp only [positionsLeft, hrev, hrev', Bool.false_eq_true, if_false, State.advance_hdr]
    omega

end State.AtSlot

/-! ### The rounds of `ITNEXT` (43_traversal.md R120) -/

theorem scan_zero (s : State) : scan 0 s = .next (answering s.endTraversal .nEnd 0) := by
  rw [scan, refuse, raise_eq_answering _ _ _ rfl]

theorem scan_succ_of_beyond {s : State} {p : Nat} (k : Nat) (hpos : toS32 s.it.pos = (p : Int))
    (hcap : toU32 s.hdr.cap ≤ p) :
    scan (k + 1) s = .next (reporting s.endTraversal .eBounds s.it.pos) := by
  simp only [scan, hpos, if_pos hcap]
  rw [raise_eq_reporting _ _ _ rfl]

theorem skipsSlot_eq_not_visits {s : State} {p : Nat} (hslot : p < toU32 s.hdr.cap) :
    skipsSlot s p = .ok (!s.visits s.it.vonly p) := by
  rw [skipsSlot_of_lt hslot, State.visits, Bool.not_or, Bool.not_not]

/-- A round at a slot of the packet: the pair, or on to the next position. -/
theorem scan_succ_of_lt {s : State} {p : Nat} (k : Nat) (hpos : toS32 s.it.pos = (p : Int))
    (hslot : p < toU32 s.hdr.cap) :
    scan (k + 1) s =
      if s.visits s.it.vonly p then
        .next (answering (s.advance.select s.it.mutable p) .ok (BitVec.ofNat 64 p))
      else scan k s.advance := by
  simp only [scan, hpos, if_neg (Nat.not_le.2 hslot), skipsSlot_eq_not_visits hslot, orFault_ok,
    respond_eq_answering]
  by_cases hvisit : s.visits s.it.vonly p = true <;> simp [hvisit]

section Rounds

variable {s : State} (hgate : gateStatus .P s = none)

include hgate

theorem exec_itnext_of_inactive (hactive : s.it.active = false) :
    exec .itnext s = .next (answering s .nEnd 0) := by
  change execItnext s = _
  rw [execItnext, gateP_of_open hgate, if_neg (Bool.eq_false_iff.1 hactive), refuse, raise_eq_answering _ _ _ rfl]

variable (hactive : s.it.active = true)

include hactive

theorem exec_itnext_eq_scan : exec .itnext s = scan (positionsLeft s) s := by
  change execItnext s = _
  rw [execItnext, gateP_of_open hgate, if_pos hactive]

theorem exec_itnext_of_end (hend : positionsLeft s = 0) :
    exec .itnext s = .next (answering s.endTraversal .nEnd 0) := by
  rw [exec_itnext_eq_scan hgate hactive, hend, scan_zero]

variable {p : Nat} (h : s.AtSlot p)

include h

theorem exec_itnext_of_beyond (hcap : toU32 s.hdr.cap ≤ p) :
    exec .itnext s = .next (reporting s.endTraversal .eBounds s.it.pos) := by
  rw [exec_itnext_eq_scan hgate hactive, h.positionsLeft_eq_succ, scan_succ_of_beyond _ h.pos hcap]

theorem exec_itnext_of_skipped (hslot : p < toU32 s.hdr.cap) (hskip : s.visits s.it.vonly p = false) :
    exec .itnext s = exec .itnext s.advance := by
  rw [exec_itnext_eq_scan hgate hactive, exec_itnext_eq_scan (s := s.advance) hgate hactive,
    h.positionsLeft_eq_succ, scan_succ_of_lt _ h.pos hslot, if_neg (Bool.eq_false_iff.1 hskip)]

theorem exec_itnext_of_visited (hslot : p < toU32 s.hdr.cap) (hvisit : s.visits s.it.vonly p = true) :
    exec .itnext s =
      .next (answering (s.advance.select s.it.mutable p) .ok (BitVec.ofNat 64 p)) := by
  rw [exec_itnext_eq_scan hgate hactive, h.positionsLeft_eq_succ, scan_succ_of_lt _ h.pos hslot, if_pos hvisit]

end Rounds

theorem visits_eq_true_iff {s : State} {vonly : Bool} {i : Nat} :
    s.visits vonly i = true ↔ (vonly = true → (s.dataOf i).getLsbD 0 = true) := by
  cases vonly <;> simp [State.visits, isValid]

theorem visits_eq_false_iff {s : State} {vonly : Bool} {i : Nat} :
    s.visits vonly i = false ↔ vonly = true ∧ (s.dataOf i).getLsbD 0 = false := by
  cases vonly <;> simp [State.visits, isValid]

/-- Settles O36: the rules of one round, at the end, beyond the capacity, at a skipped and at a visited slot. -/
theorem nextPairRounds : Obligations.NextPairRounds := by
  refine ⟨decode_encode (i := .itnext) rfl, fun _ _ hgate => gateP_of_stopped hgate _,
    fun s hgate => ⟨exec_itnext_of_inactive hgate, fun hactive hend =>
      exec_itnext_of_end hgate hactive ((positionsLeft_eq_zero_iff s).2 hend)⟩,
    fun s p next hgate hactive hpos hcounted hevcnt hnext => ?_⟩
  have h : s.AtSlot p := ⟨hpos, hcounted, Nat.lt_of_le_of_lt hevcnt (by decide)⟩
  subst hnext
  exact ⟨exec_itnext_of_beyond hgate hactive h,
    fun hslot hvonly hmark => exec_itnext_of_skipped hgate hactive h hslot (visits_eq_false_iff.2 ⟨hvonly, hmark⟩),
    fun hslot hmark => exec_itnext_of_visited hgate hactive h hslot (visits_eq_true_iff.2 hmark)⟩

end Sys2Proof.Machine
end

section
/-! PROOF. What a traversal produces (43_traversal.md R110, R120, R121). The slots ahead of a traversal are a list, of
which each round of `ITNEXT` takes the first: the search for the nearest slot and the whole sequence are inductions on
that list, the same for both directions. -/

namespace Sys2Proof.Machine

/-! ### The slots ahead of a traversal -/

/-- The slots ahead of a traversal in its order, skipped ones among them (43_traversal.md R110). -/
def State.slotsAhead (s : State) : List Nat :=
  if s.it.rev then (List.range (positionsLeft s)).reverse
  else List.range' (toS32 s.it.pos).toNat (positionsLeft s)

theorem slotsAhead_forward {s : State} (hrev : s.it.rev = false) :
    s.slotsAhead = List.range' (toS32 s.it.pos).toNat (positionsLeft s) :=
  if_neg (Bool.eq_false_iff.1 hrev)

theorem slotsAhead_reverse {s : State} (hrev : s.it.rev = true) :
    s.slotsAhead = (List.range (positionsLeft s)).reverse := if_pos hrev

theorem length_slotsAhead (s : State) : s.slotsAhead.length = positionsLeft s := by
  unfold State.slotsAhead
  split
  · rw [List.length_reverse, List.length_range]
  · exact List.length_range'

theorem State.AtSlot.slotsAhead_eq_cons {s : State} {p : Nat} (h : s.AtSlot p) :
    s.slotsAhead = p :: s.advance.slotsAhead := by
  have hleft := h.positionsLeft_eq_succ
  have hpos := h.pos
  cases hrev : s.it.rev with
  | true =>
    have hp : positionsLeft s.advance = p := by
      simp only [positionsLeft, hrev, if_true] at hleft ⊢
      omega
    rw [slotsAhead_reverse hrev, slotsAhead_reverse (s := s.advance) hrev, hleft, hp, List.range_succ,
      List.reverse_append, List.reverse_singleton, List.singleton_append]
  | false =>
    have hup := h.toS32_advance_forward hrev
    rw [slotsAhead_forward hrev, slotsAhead_forward (s := s.advance) hrev, hleft, List.range'_succ,
      show (toS32 s.it.pos).toNat = p by omega, show (toS32 s.advance.it.pos).toNat = p + 1 by omega]

theorem mem_slotsAhead_forward {s : State} {q : Nat} (hrev : s.it.rev = false) (hpos : 0 ≤ s.it.pos.toInt) :
    q ∈ s.slotsAhead ↔ s.it.pos.toInt ≤ q ∧ q < s.hdr.evcnt.toNat := by
  rw [slotsAhead_forward hrev, List.mem_range'_1]
  simp only [positionsLeft, hrev, Bool.false_eq_true, if_false, toS32, toU32]
  omega

theorem mem_slotsAhead_reverse {s : State} {q : Nat} (hrev : s.it.rev = true) :
    q ∈ s.slotsAhead ↔ (q : Int) ≤ s.it.pos.toInt := by
  rw [slotsAhead_reverse hrev, List.mem_reverse, List.mem_range]
  simp only [positionsLeft, hrev, if_true, toS32]
  omega

theorem pairwise_slotsAhead_forward {s : State} (hrev : s.it.rev = false) : s.slotsAhead.Pairwise (· < ·) := by
  rw [slotsAhead_forward hrev]
  exact List.pairwise_lt_range'

theorem pairwise_slotsAhead_reverse {s : State} (hrev : s.it.rev = true) : s.slotsAhead.Pairwise (· > ·) := by
  rw [slotsAhead_reverse hrev, List.pairwise_reverse]
  exact List.pairwise_lt_range

/-! ### What an `ITNEXT` leaves behind -/

/-- The position at which a traversal ends: one step past slot 0, or the event count unless the traversal stood
beyond it (43_traversal.md R120). -/
def State.endPos (s : State) : Word :=
  BitVec.ofInt 32 (if s.it.rev then -1 else max s.it.pos.toInt s.hdr.evcnt.toNat)

/-- `s` after an `ITNEXT` that hands out slot `p`. -/
def State.handOut (s : State) (p : Nat) : State :=
  answering ((s.atPos (BitVec.ofNat 32 p)).advance.select s.it.mutable p) .ok (BitVec.ofNat 64 p)

/-- `s` after an `ITNEXT` that finds no slot to hand out. -/
def State.runOut (s : State) : State := answering (s.atPos s.endPos).endTraversal .nEnd 0

namespace State.AtSlot

variable {s : State} {p : Nat} (h : s.AtSlot p)

include h

theorem handOut_eq : s.handOut p = answering (s.advance.select s.it.mutable p) .ok (BitVec.ofNat 64 p) := by
  rw [State.handOut, ← h.pos_eq_ofNat]
  rfl

theorem endPos_advance : s.advance.endPos = s.endPos := by
  cases hrev : s.it.rev with
  | true =>
    have hrev' : s.advance.it.rev = true := hrev
    rw [State.endPos, State.endPos, hrev, hrev', if_pos rfl, if_pos rfl]
  | false =>
    have hrev' : s.advance.it.rev = false := hrev
    have hpos : s.it.pos.toInt = (p : Int) := h.pos
    have hup : s.advance.it.pos.toInt = (p : Int) + 1 := h.toS32_advance_forward hrev
    have hcounted : p < s.hdr.evcnt.toNat := h.counted hrev
    rw [State.endPos, State.endPos, hrev, hrev', if_neg Bool.false_ne_true, if_neg Bool.false_ne_true,
      State.advance_hdr, hpos, hup]
    congr 1
    omega

/-- A skipped slot leaves no trace in what an `ITNEXT` that runs out leaves behind. -/
theorem runOut_advance : s.advance.runOut = s.runOut := by
  rw [State.runOut, h.endPos_advance]
  rfl

end State.AtSlot

/-! ### A traversal under way -/

/-- A traversal is under way behind the packet gate, in a state that meets the invariant. -/
structure State.Traversing (s : State) : Prop where
  inv : s.Inv
  gate : gateStatus .P s = none
  active : s.it.active = true

namespace State.Traversing

variable {s : State} (h : s.Traversing)

include h

theorem pkt : s.pkt = true := (h.inv.traversal h.active).1

theorem evcnt_le_cap : toU32 s.hdr.evcnt ≤ toU32 s.hdr.cap := (h.inv.counters_le h.pkt).2

theorem forward_nonneg (hrev : s.it.rev = false) : 0 ≤ toS32 s.it.pos := by
  obtain ⟨-, hstands⟩ := h.inv.traversal h.active
  rw [if_neg (Bool.eq_false_iff.1 hrev)] at hstands
  exact hstands.1

theorem reverse_range (hrev : s.it.rev = true) : -1 ≤ toS32 s.it.pos ∧ toS32 s.it.pos < (toU32 s.hdr.cap : Int) := by
  obtain ⟨-, hstands⟩ := h.inv.traversal h.active
  rwa [if_pos hrev] at hstands

/-- Before the end test holds the traversal stands at a slot of the packet. -/
theorem exists_atSlot {k : Nat} (hleft : positionsLeft s = k + 1) : ∃ p, s.AtSlot p ∧ p < toU32 s.hdr.cap := by
  obtain ⟨p, hpos⟩ := pos_nonneg_of_positionsLeft h.inv h.active hleft
  have hevcnt := h.evcnt_le_cap
  have hcap := h.inv.cap_lt h.pkt
  have hcounted : s.it.rev = false → p < toU32 s.hdr.evcnt := fun hrev => by
    simp only [positionsLeft, hrev, Bool.false_eq_true, if_false] at hleft
    omega
  refine ⟨p, ⟨hpos, hcounted, by omega⟩, ?_⟩
  cases hrev : s.it.rev with
  | true =>
    obtain ⟨-, hlt⟩ := h.reverse_range hrev
    omega
  | false => exact Nat.lt_of_lt_of_le (hcounted hrev) hevcnt

/-- The first of the slots ahead is where the traversal stands, and the others lie ahead one step on. -/
theorem atSlot_of_cons {p : Nat} {ps : List Nat} (hahead : s.slotsAhead = p :: ps) :
    s.AtSlot p ∧ p < toU32 s.hdr.cap ∧ s.advance.slotsAhead = ps := by
  have hleft : positionsLeft s = ps.length + 1 := by rw [← length_slotsAhead, hahead, List.length_cons]
  obtain ⟨q, hq, hcap⟩ := h.exists_atSlot hleft
  rw [hq.slotsAhead_eq_cons] at hahead
  obtain ⟨rfl, rfl⟩ := List.cons.inj hahead
  exact ⟨hq, hcap, rfl⟩

theorem advance {p : Nat} (hp : s.AtSlot p) (hcap : p < toU32 s.hdr.cap) : s.advance.Traversing :=
  ⟨h.inv.advance_atPos h.pkt hp.pos hcap, h.gate, h.active⟩

theorem handOut {p : Nat} (hp : s.AtSlot p) (hcap : p < toU32 s.hdr.cap) : (s.handOut p).Traversing := by
  rw [hp.handOut_eq]
  exact ⟨((h.advance hp hcap).inv.select _ h.pkt hcap).respond _, h.gate, h.active⟩

/-- A traversal with no slot ahead stands at its end already. -/
theorem pos_eq_endPos (hleft : positionsLeft s = 0) : s.it.pos = s.endPos := by
  have hend := (positionsLeft_eq_zero_iff s).1 hleft
  rw [← BitVec.ofInt_toInt (x := s.it.pos), State.endPos]
  congr 1
  cases hrev : s.it.rev with
  | true =>
    obtain ⟨hlow, -⟩ := h.reverse_range hrev
    rw [if_pos hrev] at hend
    rw [if_pos rfl]
    exact le_antisymm (Int.lt_add_one_iff.1 hend) hlow
  | false =>
    rw [if_neg (Bool.eq_false_iff.1 hrev)] at hend
    rw [if_neg Bool.false_ne_true, max_eq_left hend]

/-! ### One `ITNEXT`, and `ITNEXT` to the end -/

theorem exec_itnext_of_nil (hahead : s.slotsAhead = []) : exec .itnext s = .next s.runOut := by
  have hleft : positionsLeft s = 0 := by rw [← length_slotsAhead, hahead, List.length_nil]
  rw [exec_itnext_of_end h.gate h.active hleft, State.runOut, ← h.pos_eq_endPos hleft]
  rfl

/-- `ITNEXT` hands out the first slot ahead that the traversal does not skip, and ends the traversal when there is
none. -/
theorem exec_itnext :
    exec .itnext s = .next ((s.slotsAhead.find? (s.visits s.it.vonly)).elim s.runOut s.handOut) := by
  induction hahead : s.slotsAhead generalizing s with
  | nil => exact h.exec_itnext_of_nil hahead
  | cons p ps ih =>
    obtain ⟨hp, hcap, hrest⟩ := h.atSlot_of_cons hahead
    cases hvisit : s.visits s.it.vonly p with
    | true =>
      rw [List.find?_cons_of_pos hvisit, exec_itnext_of_visited h.gate h.active hp hcap hvisit, ← hp.handOut_eq]
      rfl
    | false =>
      rw [List.find?_cons_of_neg (Bool.eq_false_iff.1 hvisit), exec_itnext_of_skipped h.gate h.active hp hcap hvisit,
        ih (h.advance hp hcap) hrest, hp.runOut_advance]
      rfl

end State.Traversing

/-- `s` after `ITNEXT`s that hand out these slots. -/
def State.handOutAll (s : State) (slots : List Nat) : State := slots.foldl State.handOut s

theorem handOutAll_responses (s : State) (slots : List Nat) :
    (s.handOutAll slots).responses =
      s.responses ++ slots.map fun i => { status := .ok, value := BitVec.ofNat 64 i } := by
  induction slots generalizing s with
  | nil => exact (List.append_nil _).symm
  | cons p slots ih => exact (ih (s.handOut p)).trans (List.append_assoc ..)

theorem handOutAll_sel (s : State) (slots : List Nat) :
    (s.handOutAll slots).sel =
      slots.getLast?.elim s.sel fun i => { present := true, w := s.it.mutable, idx := BitVec.ofNat 31 i } := by
  induction slots generalizing s with
  | nil => rfl
  | cons p slots ih =>
    refine (ih (s.handOut p)).trans ?_
    rw [List.getLast?_cons]
    cases slots.getLast? <;> rfl

theorem handOutAll_frame (s : State) (slots : List Nat) :
    ({ s.handOutAll slots with responses := s.responses, it := s.it, sel := s.sel } : State) = s := by
  induction slots generalizing s with
  | nil => rfl
  | cons p slots ih =>
    exact congrArg (fun t : State => { t with responses := s.responses, it := s.it, sel := s.sel }) (ih (s.handOut p))

/-- What a sequence of slots leaves behind does not tell whether a slot was skipped before them. -/
theorem State.AtSlot.runOut_handOutAll_advance {s : State} {p : Nat} (h : s.AtSlot p) (slots : List Nat) :
    (s.advance.handOutAll slots).runOut = (s.handOutAll slots).runOut := by
  cases slots with
  | nil => exact h.runOut_advance
  | cons => rfl

/-- `ITNEXT` to the end hands out every slot ahead that the traversal does not skip, and then ends the traversal. -/
theorem State.Traversing.execAll_itnext {s : State} (h : s.Traversing) {slots : List Nat}
    (hslots : s.slotsAhead.filter (s.visits s.it.vonly) = slots) :
    execAll (List.replicate (slots.length + 1) .itnext) s = .next (s.handOutAll slots).runOut := by
  induction hahead : s.slotsAhead generalizing s slots with
  | nil =>
    rw [hahead] at hslots
    subst hslots
    exact execAll_cons (h.exec_itnext_of_nil hahead) []
  | cons p ps ih =>
    obtain ⟨hp, hcap, hrest⟩ := h.atSlot_of_cons hahead
    rw [hahead] at hslots
    cases hvisit : s.visits s.it.vonly p with
    | true =>
      have hnext := exec_itnext_of_visited h.gate h.active hp hcap hvisit
      rw [← hp.handOut_eq] at hnext
      have hrest' : (s.handOut p).slotsAhead = ps := by
        rw [hp.handOut_eq]
        exact hrest
      rw [List.filter_cons_of_pos hvisit, ← hrest'] at hslots
      subst hslots
      rw [List.length_cons, List.replicate_succ, execAll_cons hnext]
      exact ih (h.handOut hp hcap) rfl hrest'
    | false =>
      rw [List.filter_cons_of_neg (Bool.eq_false_iff.1 hvisit), ← hrest] at hslots
      have hnext := exec_itnext_of_skipped h.gate h.active hp hcap hvisit
      have hsame : execAll (List.replicate (slots.length + 1) .itnext) s =
          execAll (List.replicate (slots.length + 1) .itnext) s.advance := by
        simp only [List.replicate_succ, execAll, hnext]
      rw [hsame, ih (h.advance hp hcap) hslots hrest, hp.runOut_handOutAll_advance]

/-! ### The nearest slot (43_traversal.md R110, R120) -/

/-- In a list in order of `r` the search finds an element it looks for that none before it is. -/
theorem find?_eq_some_of_pairwise {α : Type} {r : α → α → Prop} {f : α → Bool} {l : List α} {a : α}
    (hl : l.Pairwise r) (hmem : a ∈ l) (ha : f a = true) (hbefore : ∀ b ∈ l, r b a → f b = false) :
    l.find? f = some a := by
  obtain ⟨xs, ys, rfl⟩ := List.append_of_mem hmem
  obtain ⟨-, -, hxs⟩ := List.pairwise_append.1 hl
  refine List.find?_eq_some_iff_append.2 ⟨ha, xs, ys, rfl, fun b hb => ?_⟩
  rw [hbefore b (List.mem_append_left _ hb) (hxs b hb a List.mem_cons_self), Bool.not_false]

theorem handOut_forward {s : State} (hrev : s.it.rev = false) (p : Nat) :
    s.handOut p = answering
      { s with
        it := { s.it with pos := BitVec.ofNat 32 (p + 1) }
        sel := { present := true, w := s.it.mutable, idx := BitVec.ofNat 31 p } }
      .ok (BitVec.ofNat 64 p) := by
  have hpos : BitVec.ofNat 32 p + 1 = BitVec.ofNat 32 (p + 1) := (BitVec.ofNat_add p 1).symm
  simp only [State.handOut, State.advance, State.atPos, State.select, hrev, Bool.false_eq_true, if_false, hpos]

theorem handOut_reverse {s : State} (hrev : s.it.rev = true) (p : Nat) :
    s.handOut p = answering
      { s with
        it := { s.it with pos := BitVec.ofInt 32 ((p : Int) - 1) }
        sel := { present := true, w := s.it.mutable, idx := BitVec.ofNat 31 p } }
      .ok (BitVec.ofNat 64 p) := by
  have hpos : BitVec.ofNat 32 p - 1 = BitVec.ofInt 32 ((p : Int) - 1) := by
    rw [sub_eq_add_neg (p : Int), BitVec.ofInt_add, BitVec.ofInt_natCast, BitVec.sub_eq_add_neg]
    rfl
  simp only [State.handOut, State.advance, State.atPos, State.select, hrev, if_true, hpos]

theorem runOut_forward {s : State} (hrev : s.it.rev = false) :
    s.runOut = answering
      { s with
        it := { s.it with active := false, pos := BitVec.ofInt 32 (max s.it.pos.toInt s.hdr.evcnt.toNat) } }
      .nEnd 0 := by
  simp only [State.runOut, State.endPos, State.atPos, State.endTraversal, hrev, Bool.false_eq_true, if_false]

theorem runOut_reverse {s : State} (hrev : s.it.rev = true) :
    s.runOut = answering { s with it := { s.it with active := false, pos := BitVec.ofInt 32 (-1) } } .nEnd 0 := by
  simp only [State.runOut, State.endPos, State.atPos, State.endTraversal, hrev, if_true]

namespace State.Traversing

variable {s : State} (h : s.Traversing)

include h

theorem exec_itnext_of_first {p : Nat} (hfind : s.slotsAhead.find? (s.visits s.it.vonly) = some p) :
    exec .itnext s = .next (s.handOut p) := by
  rw [h.exec_itnext, hfind]
  rfl

theorem exec_itnext_of_none (hnone : ∀ q ∈ s.slotsAhead, s.visits s.it.vonly q = false) :
    exec .itnext s = .next s.runOut := by
  rw [h.exec_itnext, List.find?_eq_none.2 fun q hq => Bool.eq_false_iff.1 (hnone q hq)]
  rfl

end State.Traversing

/-- Settles O37: the slots ahead are in the order of the traversal, so the first one not skipped is the nearest. -/
theorem nextPairIsNearest : Obligations.NextPairIsNearest := by
  intro s hs hgate hactive
  have h : s.Traversing := ⟨hs, hgate, hactive⟩
  refine ⟨fun hrev => ?_, fun hrev => ?_⟩
  · have hmem {q : Nat} := mem_slotsAhead_forward (q := q) hrev (h.forward_nonneg hrev)
    rw [← runOut_forward hrev]
    refine ⟨fun p hle hlt hvisit hbefore => ?_, fun hnone => h.exec_itnext_of_none fun q hq => ?_⟩
    · rw [← handOut_forward hrev]
      exact h.exec_itnext_of_first <| find?_eq_some_of_pairwise (pairwise_slotsAhead_forward hrev)
        (hmem.2 ⟨hle, hlt⟩) hvisit fun q hq hqp => hbefore q (hmem.1 hq).1 hqp
    · obtain ⟨hle, hlt⟩ := hmem.1 hq
      exact hnone q hle hlt
  · have hmem {q : Nat} := mem_slotsAhead_reverse (q := q) hrev
    rw [← runOut_reverse hrev]
    refine ⟨fun p hle hvisit hbefore => ?_, fun hnone => h.exec_itnext_of_none fun q hq => hnone q (hmem.1 hq)⟩
    rw [← handOut_reverse hrev]
    exact h.exec_itnext_of_first <| find?_eq_some_of_pairwise (pairwise_slotsAhead_reverse hrev)
      (hmem.2 hle) hvisit fun q hq hpq => hbefore q hpq (hmem.1 hq)

/-! ### The sequence (43_traversal.md R121) -/

theorem traversing_started {s : State} (hs : s.Inv) (hgate : gateStatus .P s = none) (mutable rev vonly : Bool) :
    (answering (s.started mutable rev vonly) .ok 0).Traversing :=
  ⟨endsGood_startTraversal hs mutable rev vonly _ (startTraversal_of_open hgate mutable rev vonly), hgate, rfl⟩

/-- A traversal that has just started has every counted slot ahead of it. -/
theorem slotsAhead_started {s : State} (hevcnt : toU32 s.hdr.evcnt < 2 ^ 31) (mutable rev vonly : Bool) :
    (s.started mutable rev vonly).slotsAhead =
      if rev then (List.range (toU32 s.hdr.evcnt)).reverse else List.range (toU32 s.hdr.evcnt) := by
  cases rev with
  | true =>
    have hsigned := toS32_eq_toU32 hevcnt
    have hlast := toS32_sub_one (w := s.hdr.evcnt) (by omega)
    have hleft : positionsLeft (s.started mutable true vonly) = toU32 s.hdr.evcnt := by
      simp only [positionsLeft, State.started, if_true]
      omega
    rw [slotsAhead_reverse rfl, hleft, if_pos rfl]
  | false =>
    rw [slotsAhead_forward rfl, if_neg Bool.false_ne_true, List.range_eq_range']
    rfl

/-- Settles O38: a start puts every counted slot ahead, and `ITNEXT` to the end hands out those not skipped. -/
theorem traversalProducesSequence : Obligations.TraversalProducesSequence := by
  intro s m r v hs hgate
  have h := traversing_started hs hgate m r v
  have hevcnt : toU32 s.hdr.evcnt < 2 ^ 31 := h.evcnt_le_cap.trans_lt (hs.cap_lt h.pkt)
  have hslots : (s.started m r v).slotsAhead.filter (s.visits v) = s.traversalIndices r v := by
    rw [slotsAhead_started hevcnt, State.traversalIndices]
    cases r with
    | true => exact List.filter_reverse
    | false => rfl
  have hstart : exec (startInstr m r v) s = .next (answering (s.started m r v) .ok 0) :=
    (exec_startInstr m r v s).trans (startTraversal_of_open hgate m r v)
  refine ⟨_, (execAll_cons hstart _).trans (h.execAll_itnext hslots), ?_, rfl, ?_, ?_⟩
  · exact congrArg (· ++ _) (handOutAll_responses _ _)
  · refine (handOutAll_sel _ _).trans ?_
    cases (s.traversalIndices r v).getLast? <;> rfl
  · exact congrArg (fun t : State => { t with responses := s.responses, it := s.it, sel := s.sel })
      (handOutAll_frame (answering (s.started m r v) .ok 0) _)

end Sys2Proof.Machine
end

section
/-! PROOF. Access, creation, release and the view check (44_access_alloc_header.md R130 to R133), behind the gates
of R165 taken one check at a time. -/

namespace Sys2Proof.Machine

/-! ### The checks of a gate, passed and failed (60_exceptions.md R165, R166) -/

section Gates

variable {s : State}

theorem refuse_eq_answering {c : Status} (hc : c.reported = false) : refuse s c = .next (answering s c 0) :=
  congrArg _ (raise_eq_answering s c 0 hc)

theorem gateH_of_packet (hp : s.pkt = true) (k : Result) : gateH s k = k := if_pos hp

theorem gateH_of_noPacket (hp : s.pkt = false) (k : Result) : gateH s k = .next (answering s .xNoPacket 0) :=
  (if_neg (Bool.eq_false_iff.1 hp)).trans (refuse_eq_answering rfl)

theorem gateA_of_packet (hp : s.pkt = true) (k : Result) :
    gateA s k = .next (answering s .xAlreadyAllocated 0) :=
  (if_pos hp).trans (refuse_eq_answering rfl)

theorem gateA_of_noPacket (hp : s.pkt = false) (k : Result) : gateA s k = k := if_neg (Bool.eq_false_iff.1 hp)

theorem checkTag_of_eq (htag : s.hdr.type = s.params.spikeEventTag) (k : Result) : checkTag s k = k :=
  if_pos (beq_iff_eq.2 htag)

theorem checkTag_of_ne (htag : s.hdr.type ≠ s.params.spikeEventTag) (k : Result) :
    checkTag s k = .next (answering s .nTagMismatch 0) :=
  (if_neg (mt beq_iff_eq.1 htag)).trans (refuse_eq_answering rfl)

theorem gateHalf_of_legal {v : Word} (hhigh : v.extractLsb' 16 16 = 0) (k : Result) : gateHalf v s k = k :=
  if_pos hhigh

theorem gateHalf_of_illegal {v : Word} (hhigh : v.extractLsb' 16 16 ≠ 0) (k : Result) :
    gateHalf v s k = .next (answering s .xIllegalCmd 0) :=
  (if_neg hhigh).trans (refuse_eq_answering rfl)

end Gates

/-! ### Access (R130) -/

section Access

variable {s : State} (hgate : gateStatus .P s = none) {n : Word}

include hgate

theorem execGetevent_of_lt (hsign : 0 ≤ n.toInt) (hcap : n.toInt < s.hdr.cap.toNat) :
    execGetevent n s =
      .next (answering { s with sel := { present := true, w := true, idx := n.setWidth 31 } } .ok (n.setWidth 64)) := by
  have hin : ¬(toS32 n < 0 ∨ (toU32 s.hdr.cap : Int) ≤ toS32 n) :=
    not_or.2 ⟨Int.not_lt.2 hsign, Int.not_le.2 hcap⟩
  rw [execGetevent, gateP_of_open hgate, if_neg hin, State.select, toU32, BitVec.ofNat_toNat, respond_eq_answering,
    zext64]

theorem execGetevent_of_beyond (hout : n.toInt < 0 ∨ (s.hdr.cap.toNat : Int) ≤ n.toInt) :
    execGetevent n s = .next (reporting { s with sel := { s.sel with present := false } } .eBounds n) := by
  rw [execGetevent, gateP_of_open hgate, toS32, toU32, if_pos hout, raise_eq_reporting _ _ _ rfl, State.dropRef]

end Access

/-- Settles O39: behind the packet gate the two bounds of the index decide between the selection and the report. -/
theorem geteventSelects : Obligations.GeteventSelects :=
  ⟨fun n => decode_encode (i := .getevent n) rfl,
    fun _ _ hgate hsign hcap => execGetevent_of_lt hgate hsign hcap,
    fun _ _ hgate hout => execGetevent_of_beyond hgate hout,
    fun _ _ _ hgate => gateP_of_stopped hgate _⟩

/-! ### Creation (R131) -/

/-- The model's failure test, on naturals, catches whatever breaks a condition of the spec on unbounded integers. -/
theorem allocFails_of_not_allocFits {p : Params} {cap : Word} (h : ¬allocFits p cap) : allocFails p cap = true := by
  refine Bool.eq_true_of_not_eq_false fun hpass => h ?_
  simp only [allocFails, Bool.or_eq_false_iff, decide_eq_false_iff_not] at hpass
  obtain ⟨⟨hsign, hmax⟩, hsize⟩ := hpass
  have hnonneg : 0 ≤ toS32 cap := Int.not_lt.1 hsign
  have hpow : (2 : Int) ^ p.sizeBits = ((2 ^ p.sizeBits : Nat) : Int) := by norm_cast
  have hpos : 0 < 2 ^ p.sizeBits := Nat.two_pow_pos _
  rw [allocFits, toS32_eq_toU32 (toU32_lt_of_toS32_nonneg hnonneg), hpow]
  unfold imageSize at hsize
  omega

/-- A size type has at most 64 bits (00_scope.md R6), so the size of an image it can hold is a value. -/
theorem toNat_ofNat_imageSize {p : Params} {cap : Word} (hwf : p.wf = true) (hfits : allocFits p cap) :
    (BitVec.ofNat 64 (imageSize p (toU32 cap))).toNat = imageSize p (toU32 cap) := by
  obtain ⟨hsign, -, hsize⟩ := hfits
  simp only [Params.wf, Bool.and_eq_true, decide_eq_true_eq] at hwf
  obtain ⟨-, hbits⟩ := hwf
  have hpow : (2 : Int) ^ p.sizeBits ≤ 2 ^ 64 := pow_le_pow_right₀ (by decide) hbits
  rw [toS32_eq_toU32 (toU32_lt_of_toS32_nonneg hsign)] at hsize
  refine (BitVec.toNat_ofNat _ 64).trans (Nat.mod_eq_of_lt ?_)
  unfold imageSize
  omega

section Creation

variable {s : State} {n : Word} (hp : s.pkt = false)

include hp

theorem execAlloc_of_not_fits (hfits : ¬allocFits s.params n) :
    execAlloc n s = .next (reporting s .eAllocFail n) := by
  rw [execAlloc, gateA_of_noPacket hp, allocFails_of_not_allocFits hfits, if_pos rfl, raise_eq_reporting _ _ _ rfl]

theorem execAlloc_of_fits (hfits : allocFits s.params n) :
    execAlloc n s = .next ((s.create n).respond (BitVec.ofNat 64 (imageSize s.params (toU32 n)))) := by
  rw [execAlloc, gateA_of_noPacket hp, allocFails_of_allocFits hfits, if_neg Bool.false_ne_true]

end Creation

/-- Settles O40: the gate refuses where a packet is, the failure test decides between the report and the creation,
and the answered size does not wrap. -/
theorem allocCreates : Obligations.AllocCreates :=
  ⟨fun n => decode_encode (i := .alloc n) rfl,
    fun _ _ hp => gateA_of_packet hp _,
    fun _ _ hp hfits => execAlloc_of_not_fits hp hfits,
    fun s n hwf hp hfits =>
      ⟨_, _, execAlloc_of_fits hp hfits, toNat_ofNat_imageSize hwf hfits,
        s.mem.read_clearBelow (8 * toU32 n), rfl⟩⟩

/-! ### Release and the view check (R132, R133) -/

/-- Settles O41: behind the header gate, which has no tag test, the release is the whole effect. -/
theorem freeReleases : Obligations.FreeReleases :=
  ⟨decode_encode (i := .free) rfl, fun _ hp => gateH_of_packet hp _, fun _ hp => gateH_of_noPacket hp _⟩

/-- Settles O42: `VIEW` is the header gate and the tag test, with nothing behind them but the answer. -/
theorem viewChecksTag : Obligations.ViewChecksTag :=
  ⟨decode_encode (i := .view) rfl,
    fun _ hp => gateH_of_noPacket hp _,
    fun _ hp htag => (gateH_of_packet hp _).trans (checkTag_of_ne htag _),
    fun _ hp htag => (gateH_of_packet hp _).trans (checkTag_of_eq htag _)⟩

end Sys2Proof.Machine
end

section
/-! PROOF. The header reads and writes (44_access_alloc_header.md R134 to R144): each is one register behind the
header gate; the two of class H test their operand first, the two of the counters test invariant I2. -/

namespace Sys2Proof.Machine

/-! ### Reads (R134 to R139) -/

theorem readHeader_of_packet {s : State} (hp : s.pkt = true) (v : Value) :
    readHeader s v = .next (answering s .ok v) :=
  gateH_of_packet hp _

/-- Settles O43: each read is the header gate and one register. -/
theorem headerReads : Obligations.HeaderReads := by
  refine ⟨⟨decode_encode (i := .rdtype) rfl, decode_encode (i := .rdsource) rfl, decode_encode (i := .rdcap) rfl,
    decode_encode (i := .rdevcnt) rfl, decode_encode (i := .rdvalcnt) rfl, decode_encode (i := .rdovf) rfl⟩,
    fun s hp => ?_, fun s hp => ?_⟩
  · exact ⟨readHeader_of_packet hp _, readHeader_of_packet hp _, readHeader_of_packet hp _,
      readHeader_of_packet hp _, readHeader_of_packet hp _, readHeader_of_packet hp _⟩
  · simp only [List.forall_mem_cons]
    exact ⟨gateH_of_noPacket hp _, gateH_of_noPacket hp _, gateH_of_noPacket hp _, gateH_of_noPacket hp _,
      gateH_of_noPacket hp _, gateH_of_noPacket hp _, nofun⟩

/-! ### The tag and the source (R140, R141) -/

theorem classH_of_illegal {w : CmdWord} {op : BitVec 8} {arg : Word} {mk : Word → Instr} (hop : cmdOp w = op)
    (harg : cmdArg w = arg) (hillegal : halfOperand arg = false) : classH w mk = .error (.reservedArg op arg) := by
  rw [classH, hop, harg, if_neg (beq_eq_false_iff_ne.1 hillegal)]

/-- A word with the opcode of a command and an operand outside its class is illegal (30_encoding.md R57, R59). -/
theorem decode_encode_of_not_wellFormed {i : Instr} (hwf : i.wellFormed = false) :
    decode (encode i) = .error (.reservedArg i.op i.arg) := by
  cases i with
  | wrtype v | wrsource v =>
    unfold decode
    rw [cmdOp_encode]
    exact classH_of_illegal (cmdOp_encode _) (cmdArg_encode _) hwf
  | _ => nomatch hwf

/-- Settles O44: the high half of the operand is tested by the decoder and again before the gate; the low half is
what is written. -/
theorem tagAndSourceWrites : Obligations.TagAndSourceWrites := by
  refine ⟨fun v hhigh => ?_, fun v hhigh => ?_, fun s v hhigh hp => ?_, fun s v hhigh hp => ?_⟩
  · have hwf : halfOperand v = true := beq_iff_eq.2 hhigh
    exact ⟨decode_encode (i := .wrtype v) hwf, decode_encode (i := .wrsource v) hwf⟩
  · have hwf : halfOperand v = false := beq_eq_false_iff_ne.2 hhigh
    exact ⟨decode_encode_of_not_wellFormed (i := .wrtype v) hwf,
      decode_encode_of_not_wellFormed (i := .wrsource v) hwf,
      fun s => ⟨gateHalf_of_illegal hhigh _, gateHalf_of_illegal hhigh _⟩⟩
  · exact ⟨(gateHalf_of_legal hhigh _).trans (gateH_of_packet hp _),
      (gateHalf_of_legal hhigh _).trans (gateH_of_packet hp _)⟩
  · exact ⟨(gateHalf_of_legal hhigh _).trans (gateH_of_noPacket hp _),
      (gateHalf_of_legal hhigh _).trans (gateH_of_noPacket hp _)⟩

/-! ### The counters (R142 to R144) -/

section Counters

variable {s : State} (hp : s.pkt = true) {v : Word}

include hp

theorem execWrevcnt_of_outside (hout : v.toNat < s.hdr.valcnt.toNat ∨ s.hdr.cap.toNat < v.toNat) :
    execWrevcnt v s = .next (answering s .xCountLimit 0) := by
  rw [execWrevcnt, gateH_of_packet hp, toU32, toU32, toU32, if_pos hout, refuse_eq_answering rfl]

theorem execWrevcnt_of_within (hvalid : s.hdr.valcnt.toNat ≤ v.toNat) (hcap : v.toNat ≤ s.hdr.cap.toNat) :
    execWrevcnt v s = .next (answering { s with hdr := { s.hdr with evcnt := v } } .ok 0) := by
  have hin : ¬(toU32 v < toU32 s.hdr.valcnt ∨ toU32 s.hdr.cap < toU32 v) :=
    not_or.2 ⟨Nat.not_lt.2 hvalid, Nat.not_lt.2 hcap⟩
  rw [execWrevcnt, gateH_of_packet hp, if_neg hin, respond_eq_answering, State.setHdr]

theorem execWrvalcnt_of_lt (hout : s.hdr.evcnt.toNat < v.toNat) :
    execWrvalcnt v s = .next (answering s .xCountLimit 0) := by
  rw [execWrvalcnt, gateH_of_packet hp, toU32, toU32, if_pos hout, refuse_eq_answering rfl]

theorem execWrvalcnt_of_le (hevents : v.toNat ≤ s.hdr.evcnt.toNat) :
    execWrvalcnt v s = .next (answering { s with hdr := { s.hdr with valcnt := v } } .ok 0) := by
  rw [execWrvalcnt, gateH_of_packet hp, toU32, toU32, if_neg (Nat.not_lt.2 hevents), respond_eq_answering,
    State.setHdr]

end Counters

/-- Settles O45: behind the header gate the bounds of invariant I2 decide between the refusal and the write. -/
theorem counterWrites : Obligations.CounterWrites :=
  ⟨fun v => ⟨decode_encode (i := .wrevcnt v) rfl, decode_encode (i := .wrvalcnt v) rfl⟩,
    fun _ _ hp => ⟨execWrevcnt_of_outside hp, execWrevcnt_of_within hp, execWrvalcnt_of_lt hp,
      execWrvalcnt_of_le hp⟩,
    fun _ _ hp => ⟨gateH_of_noPacket hp _, gateH_of_noPacket hp _⟩⟩

/-- Settles O46: the overflow counter has no bound, so the header gate is the only test. -/
theorem overflowWrite : Obligations.OverflowWrite :=
  ⟨fun v => decode_encode (i := .wrovf v) rfl, fun _ _ hp => gateH_of_packet hp _,
    fun _ _ hp => gateH_of_noPacket hp _⟩

end Sys2Proof.Machine
end

section
/-! PROOF. No state of a run stops the block (60_exceptions.md R164, 70_reset_and_hazards.md R204). -/

namespace Sys2Proof.Machine

theorem State.ObsEq.refl (s : State) : s.ObsEq s where
  params := rfl
  inbox := rfl
  draws := rfl
  responses := rfl
  log := rfl
  replies := rfl
  pkt := rfl
  hdr _ := rfl
  mem _ _ _ := rfl
  present _ := rfl
  sel _ _ := rfl
  active _ := rfl
  it _ _ := rfl

/-- Settles O10: two runs that cannot be told apart both go on, by the induction of `alike_scan` on the loop of
`ITNEXT`; so a run beside itself goes on. -/
theorem stepAlwaysContinues : Obligations.StepAlwaysContinues := by
  intro s hs
  obtain ⟨t, -, ht, -, -⟩ := alike_step hs hs (.refl s)
  exact ⟨t, ht⟩

end Sys2Proof.Machine
end

section
/-! PROOF. How a command concludes: the gate of R165 before its own pseudocode, then one response, at most one
report, and what R164 lets a condition change. One walk over the commands gives all three. -/

namespace Sys2Proof.Machine

/-! ### The gates as one operation (60_exceptions.md R165, R166) -/

/-- The command `k` behind a gate. -/
def gate : Gate → State → Result → Result
  | .W => gateW
  | .R => gateR
  | .P => gateP
  | .H => gateH
  | .A => gateA

theorem gate_eq (g : Gate) (s : State) (k : Result) :
    gate g s k = match gateStatus g s with
      | some c => .next (answering s c 0)
      | none => k := by
  cases g with
  | W => exact gateW_eq s k
  | R => exact gateR_eq s k
  | P => exact gateP_eq s k
  | H => exact gateH_eq s k
  | A => exact gateA_eq s k

theorem gate_of_stopped {g : Gate} {s : State} {c : Status} (h : gateStatus g s = some c) (k : Result) :
    gate g s k = .next (answering s c 0) := by rw [gate_eq, h]

theorem gate_of_open {g : Gate} {s : State} (h : gateStatus g s = none) (k : Result) : gate g s k = k := by
  rw [gate_eq, h]

theorem firstFailing_mem {checks : List (Bool × Status)} {c : Status} (h : firstFailing checks = some c) :
    (true, c) ∈ checks := by
  induction checks with
  | nil => nomatch h
  | cons check rest ih =>
    obtain ⟨fails, d⟩ := check
    cases fails with
    | true => exact Option.some.inj h ▸ List.mem_cons_self
    | false => exact List.mem_cons_of_mem _ (ih h)

/-- A gate stops a command with none of the conditions that are reported or that end a traversal. -/
theorem gateStatus_plain {g : Gate} {s : State} {c : Status} (h : gateStatus g s = some c) :
    c.reported = false ∧ c ≠ .nEnd := by
  have hchecks : ∀ check ∈ gateChecks g s, check.2.reported = false ∧ check.2 ≠ .nEnd := by
    cases g <;> simp [gateChecks, Status.reported]
  exact hchecks _ (firstFailing_mem h)

/-! ### The conclusions (60_exceptions.md R163, R164) -/

/-- The ways a command can conclude, each with the report R163 gives it and the changes R164 allows it. -/
inductive Conclusion (s : State) : Instr → State → Prop
  /-- the command completes with `OK`, whatever it has written -/
  | completed {i : Instr} {u : State} (v : Value) (hresponses : u.responses = s.responses)
      (hlog : u.log = s.log) : Conclusion s i (u.respond v)
  /-- a condition that changes nothing -/
  | raised {i : Instr} {c : Status} {info : Word} (hend : c ≠ .nEnd) (hbounds : c ≠ .eBounds)
      (hinfo : c.reported = true → info = reportInfo i s s) : Conclusion s i (s.raise c info)
  /-- the index out of bounds, which clears `SEL.present` -/
  | outOfBounds (n : Word) : Conclusion s (.getevent n) (s.dropRef.raise .eBounds n)
  /-- the end of the traversal, at the position reached -/
  | exhausted (pos : Word) : Conclusion s .itnext ((s.atPos pos).endTraversal.raise .nEnd 0)
  /-- the traversal beyond the capacity, at the position reached -/
  | beyond (pos : Word) : Conclusion s .itnext ((s.atPos pos).endTraversal.raise .eBounds pos)

/-- The outcome, if it goes on, is a conclusion of the command `i`. -/
def Concludes (s : State) (i : Instr) (o : Result) : Prop := ∀ t, o = .next t → Conclusion s i t

section Conclusions

variable {s : State} {i : Instr}

theorem concludes_next {t : State} (h : Conclusion s i t) : Concludes s i (.next t) :=
  fun _ heq => Host.Outcome.next.inj heq ▸ h

theorem concludes_completed {u : State} {v : Value} (hresponses : u.responses = s.responses)
    (hlog : u.log = s.log) : Concludes s i (.next (u.respond v)) :=
  concludes_next (.completed v hresponses hlog)

theorem concludes_respond (v : Value) : Concludes s i (.next (s.respond v)) := concludes_completed rfl rfl

theorem conclusion_of_not_reported {c : Status} (hc : c.reported = false) (hend : c ≠ .nEnd) :
    Conclusion s i (s.raise c 0) :=
  .raised hend (fun hbounds => nomatch hbounds ▸ hc) fun hreported => nomatch hc.symm.trans hreported

theorem concludes_refuse {c : Status} (hc : c.reported = false) (hend : c ≠ .nEnd) : Concludes s i (refuse s c) :=
  concludes_next (conclusion_of_not_reported hc hend)

/-- A condition reported with the info R161 gives it. -/
theorem concludes_report {c : Status} {info : Word} (hinfo : info = reportInfo i s s)
    (hend : c ≠ .nEnd) (hbounds : c ≠ .eBounds) : Concludes s i (.next (s.raise c info)) :=
  concludes_next (.raised hend hbounds fun _ => hinfo)

theorem concludes_ite {p : Prop} [Decidable p] {a b : Result} (ha : Concludes s i a) (hb : Concludes s i b) :
    Concludes s i (if p then a else b) := by
  split
  · exact ha
  · exact hb

theorem concludes_gate {g : Gate} {k : Result} (hk : Concludes s i k) : Concludes s i (gate g s k) := by
  cases hgate : gateStatus g s with
  | none =>
    rw [gate_of_open hgate]
    exact hk
  | some c =>
    obtain ⟨hc, hend⟩ := gateStatus_plain hgate
    rw [gate_of_stopped hgate, ← raise_eq_answering s c 0 hc]
    exact concludes_refuse hc hend

theorem concludes_checkTag {k : Result} (hk : Concludes s i k) : Concludes s i (checkTag s k) := by
  intro t ht
  rcases checkTag_cases ht with ⟨-, rfl⟩ | ⟨-, ht⟩
  · exact conclusion_of_not_reported rfl nofun
  · exact hk t ht

theorem concludes_orFault {α : Type} {x : Except Fault α} {k : α → Result}
    (hk : ∀ a, x = .ok a → Concludes s i (k a)) : Concludes s i (orFault x k) := by
  intro t ht
  obtain ⟨a, ha, ht⟩ := (orFault_eq_next_iff x k t).1 ht
  exact hk a ha t ht

theorem concludes_read {x : Except Fault Word} (f : Word → Value) :
    Concludes s i (orFault x fun w => .next (s.respond (f w))) :=
  concludes_orFault fun w _ => concludes_respond (f w)

theorem concludes_modifyData {f : Word → Word} {k : State → State}
    (hresponses : ∀ u, (k u).responses = u.responses) (hlog : ∀ u, (k u).log = u.log) :
    Concludes s i (modifyData s f k) := by
  intro t ht
  obtain ⟨-, rfl⟩ := modifyData_cases ht
  exact .completed 0 (hresponses _) (hlog _)

theorem concludes_scan (k : Nat) : Concludes s .itnext (scan k s) := by
  intro t ht
  obtain ⟨pos, rfl | rfl | ⟨p, -, -, -, rfl⟩⟩ := scan_cases ht
  · exact .exhausted pos
  · exact .beyond pos
  · exact .completed _ rfl rfl

/-- With no traversal active there is nothing to end. -/
theorem endTraversal_of_inactive (h : s.it.active = false) : (s.atPos s.it.pos).endTraversal = s := by
  rw [State.endTraversal, State.atPos, ← h]

end Conclusions

/-! ### The commands -/

/-- A command without a legal encoding is stopped before its gate (60_exceptions.md R166). -/
theorem exec_of_not_wellFormed {i : Instr} (hwf : i.wellFormed = false) (s : State) :
    exec i s = .next (answering s .xIllegalCmd 0) := by
  cases i with
  | wrtype v | wrsource v => exact gateHalf_of_illegal (beq_eq_false_iff_ne.1 hwf) _
  | _ => nomatch hwf

/-- The command is its gate before a part that concludes. -/
def Gated (i : Instr) (s : State) : Prop := ∃ k, exec i s = gate (gateOf i) s k ∧ Concludes s i k

section Commands

variable (s : State)

theorem gated_setts (v : Word) : Gated (.setts v) s := by
  refine ⟨_, rfl, concludes_ite (concludes_report rfl nofun nofun) (concludes_orFault fun u hwrite => ?_)⟩
  obtain ⟨-, rfl⟩ := writeTs_cases hwrite
  exact concludes_completed rfl rfl

theorem gated_itnext : Gated .itnext s := by
  refine ⟨_, rfl, ?_⟩
  split_ifs with hactive
  · exact concludes_scan _
  · have hend : Conclusion s .itnext _ := .exhausted s.it.pos
    rw [endTraversal_of_inactive (Bool.eq_false_iff.2 hactive)] at hend
    exact concludes_next hend

theorem gated_alloc (cap : Word) : Gated (.alloc cap) s := by
  refine ⟨_, rfl, concludes_next ?_⟩
  split_ifs
  · exact .raised nofun nofun fun _ => rfl
  · exact .completed _ rfl rfl

end Commands

/-- Each legal command has the gate the table of R165 names. -/
theorem gated {i : Instr} (hwf : i.wellFormed = true) (s : State) : Gated i s := by
  cases i with
  | getcore | getchip | getneuron | getts | isvalid => exact ⟨_, rfl, concludes_read _⟩
  | setcore v | setchip v | setneuron v =>
    exact ⟨_, rfl, concludes_modifyData (fun _ => rfl) fun _ => rfl⟩
  | setts v => exact gated_setts s v
  | validate | invalidate =>
    exact ⟨_, rfl, concludes_orFault fun _ _ => concludes_ite (concludes_report rfl nofun nofun)
      (concludes_ite (concludes_refuse rfl nofun) (concludes_modifyData (fun _ => rfl) fun _ => rfl))⟩
  | getts64 =>
    exact ⟨_, rfl, concludes_orFault fun _ _ => concludes_ite (concludes_refuse rfl nofun) (concludes_respond _)⟩
  | itfa | itfv | itra | itrv | itfam | itfvm | itram | itrvm => exact ⟨_, rfl, concludes_completed rfl rfl⟩
  | itnext => exact gated_itnext s
  | getevent n => exact ⟨_, rfl, concludes_ite (concludes_next (.outOfBounds n)) (concludes_completed rfl rfl)⟩
  | alloc cap => exact gated_alloc s cap
  | view => exact ⟨_, rfl, concludes_checkTag (concludes_respond 0)⟩
  | rdtype | rdsource | rdcap | rdevcnt | rdvalcnt | rdovf => exact ⟨_, rfl, concludes_respond _⟩
  | wrtype v | wrsource v => exact ⟨_, gateHalf_of_legal (beq_iff_eq.1 hwf) _, concludes_completed rfl rfl⟩
  | wrevcnt v | wrvalcnt v =>
    exact ⟨_, rfl, concludes_ite (concludes_refuse rfl nofun) (concludes_completed rfl rfl)⟩
  | free | wrovf v => exact ⟨_, rfl, concludes_completed rfl rfl⟩

theorem concludes_exec (i : Instr) (s : State) : Concludes s i (exec i s) := by
  cases hwf : i.wellFormed with
  | false =>
    rw [exec_of_not_wellFormed hwf, ← refuse_eq_answering rfl]
    exact concludes_refuse rfl nofun
  | true =>
    obtain ⟨k, hexec, hk⟩ := gated hwf s
    rw [hexec]
    exact concludes_gate hk

/-- Everything a command that goes on can conclude with. -/
theorem exec_conclusion {i : Instr} {s t : State} (h : exec i s = .next t) : Conclusion s i t :=
  concludes_exec i s t h

/-- Settles O13: an illegal operand is refused first, and each legal command is its gate before the rest. -/
theorem gatesStopInOrder : Obligations.GatesStopInOrder := by
  refine fun i s => ⟨fun hwf => exec_of_not_wellFormed hwf s, fun hwf c hstopped => ?_, fun hp htag => ?_⟩
  · obtain ⟨k, hexec, -⟩ := gated hwf s
    exact hexec.trans (gate_of_stopped hstopped k)
  · exact (gateH_of_packet hp _).trans (checkTag_of_ne htag _)

/-! ### Responses and reports (60_exceptions.md R163) -/

theorem reported_iff {c : Status} :
    c.reported = true ↔ c = .eBounds ∨ c = .eInvalidArg ∨ c = .eInvariant ∨ c = .eAllocFail := by
  cases c <;> simp [Status.reported]

theorem reportsOf_congr {c : Status} {info info' : Word} (h : c.reported = true → info = info') :
    reportsOf c info = reportsOf c info' := by
  cases hc : c.reported with
  | false => rw [reportsOf_of_not_reported _ hc, reportsOf_of_not_reported _ hc]
  | true => rw [h hc]

/-- A conclusion adds one response, with value 0 unless it is `OK`, and the reports of its status. -/
theorem Conclusion.outputs {i : Instr} {s t : State} (h : Conclusion s i t) :
    ∃ r : Response, t.responses = s.responses ++ [r] ∧ (r.status ≠ .ok → r.value = 0) ∧
      t.log = s.log ++ reportsOf r.status (reportInfo i s t) := by
  cases h with
  | completed v hresponses hlog =>
    refine ⟨⟨.ok, v⟩, ?_, fun hne => absurd rfl hne, ?_⟩
    · rw [State.respond_responses, hresponses]
    · rw [State.respond_log, hlog, reportsOf_of_not_reported _ rfl, List.append_nil]
  | raised hend hbounds hinfo => exact ⟨_, rfl, fun _ => rfl, congrArg _ (reportsOf_congr hinfo)⟩
  | outOfBounds | exhausted | beyond => exact ⟨_, rfl, fun _ => rfl, rfl⟩

/-- Settles O14: the outputs of each conclusion. -/
theorem oneResponseAndItsReport : Obligations.OneResponseAndItsReport := by
  intro i s t ht
  obtain ⟨r, hresponses, hvalue, hlog⟩ := (exec_conclusion ht).outputs
  refine ⟨r, hresponses, hvalue, hlog.trans (congrArg _ ?_)⟩
  simp only [reportsOf, reported_iff]

/-! ### What a condition changes (60_exceptions.md R164) -/

theorem status_of_raise {u : State} {c : Status} {info : Word} {r : Response}
    (h : (u.raise c info).responses = u.responses ++ [r]) : r.status = c := by
  rw [State.raise_responses, List.append_cancel_left_eq, List.singleton_inj] at h
  rw [← h]

/-- Settles O15: the conclusions other than `OK` change only what the two exceptions name. -/
theorem nonOkChangesNothing : Obligations.NonOkChangesNothing := by
  intro i s t r ht hresponses hne
  cases exec_conclusion ht with
  | completed v hsame =>
    rw [State.respond_responses, hsame, List.append_cancel_left_eq, List.singleton_inj] at hresponses
    exact absurd (congrArg Response.status hresponses).symm hne
  | raised hend hbounds =>
    have hstatus := status_of_raise hresponses
    rw [← hstatus] at hend hbounds
    cases i with
    | getevent n => exact (if_neg hbounds).symm
    | itnext => exact (if_neg (not_or.2 ⟨hend, hbounds⟩)).symm
    | _ => rfl
  | outOfBounds n => exact (if_pos (status_of_raise hresponses)).symm
  | exhausted pos => exact (if_pos (.inl (status_of_raise hresponses))).symm
  | beyond pos => exact (if_pos (.inr (status_of_raise hresponses))).symm

end Sys2Proof.Machine
end

section
/-! PROOF. Reset, and what is left to do with no packet there (70_reset_and_hazards.md R190). -/

namespace Sys2Proof.Machine

/-- `ALLOC` is the only command behind `gate(A)` (60_exceptions.md R165). -/
theorem gateOf_ne_A {i : Instr} (halloc : ∀ c, i ≠ .alloc c) : gateOf i ≠ .A := by
  cases i with
  | alloc c => exact absurd rfl (halloc c)
  | _ => exact nofun

/-- A reset presented next is the whole of the step. -/
theorem step_reset {s : State} {rest : List Presented} (hinbox : s.inbox = .reset :: rest) :
    step s = .next (s.take rest).hardReset := by
  simp only [step, hinbox, accept]

section NoPacket

variable {s : State} (hp : s.pkt = false)

include hp

/-- The packet test is the first check of every gate but `gate(A)` (60_exceptions.md R165). -/
theorem gateStatus_noPacket {g : Gate} (hg : g ≠ .A) : gateStatus g s = some .xNoPacket := by
  have hfails : (!s.pkt) = true := by rw [hp, Bool.not_false]
  cases g with
  | A => exact absurd rfl hg
  | W | R | P | H => exact if_pos hfails

theorem exec_noPacket {i : Instr} (hwf : i.wellFormed = true) (halloc : ∀ c, i ≠ .alloc c) :
    exec i s = .next (answering s .xNoPacket 0) := by
  obtain ⟨-, hstopped, -⟩ := gatesStopInOrder i s
  exact hstopped hwf _ (gateStatus_noPacket hp (gateOf_ne_A halloc))

/-- With no packet there `ALLOC` creates one or reports that it cannot. -/
theorem exec_alloc_noPacket (cap : Word) :
    ∃ (u : State) (r : Response), exec (.alloc cap) s = .next u ∧ u.responses = s.responses ++ [r] ∧
      (r.status = .ok ∨ r.status = .eAllocFail) := by
  by_cases hfits : allocFits s.params cap
  · exact ⟨_, _, execAlloc_of_fits hp hfits, rfl, .inl rfl⟩
  · exact ⟨_, _, execAlloc_of_not_fits hp hfits, rfl, .inr rfl⟩

end NoPacket

/-- Settles O12: a reset step is the hardware reset of the rest, and with no packet every gate but that of `ALLOC`
stops at its first check. -/
theorem resetLeavesNoPacket : Obligations.ResetLeavesNoPacket :=
  ⟨⟨rfl, rfl, rfl, rfl⟩,
    fun _ _ hinbox => ⟨_, step_reset hinbox, rfl, rfl, rfl, rfl, rfl, rfl, rfl, rfl, rfl⟩,
    fun _ hp => ⟨fun _ hwf halloc => exec_noPacket hp hwf halloc, exec_alloc_noPacket hp,
      fun a => imageAccess_noPacket a hp⟩⟩

end Sys2Proof.Machine
end
